-- ==== Sys2Proof/Word.lean ====
section
/-! DEFINITION. The word types of the command port and of the arena (00_scope.md R11). -/

namespace Sys2Proof

/-- A command, operand or response word: 32 bits (R11). -/
abbrev Word := BitVec 32

/-- A binary32 value, held as its bit pattern (R11, R303). -/
abbrev F32 := BitVec 32

/-- A byte of the arena (R150). -/
abbrev Byte := BitVec 8

end Sys2Proof
end

