-- ==== Sys2Proof/Machine/Float.lean ====
section
/-! DEFINITION. IEEE 754 binary32 arithmetic, round to nearest even, nothing fused, subnormals kept
(00_scope.md R20 to R24). Every finite value is a whole number of units of 2^-149, so an operation
computes its exact result in those units and rounds once. The operand `q` of an operation is the value
drawn for a NaN result (R22); it is used for nothing else. -/

namespace Sys2Proof.Machine

/-- The magnitude bits of a binary32 pattern. -/
def fmag (a : F32) : Nat := a.toNat % 2 ^ 31

/-- The sign bit. -/
def fsign (a : F32) : Bool := a.msb

/-- The magnitude bits of an infinity. -/
def infMag : Nat := 0x7F800000

def fIsNaN (a : F32) : Bool := decide (infMag < fmag a)
def fIsInf (a : F32) : Bool := decide (fmag a = infMag)

/-- `isFinite(a)` of R21: neither an infinity nor NaN. -/
def fIsFinite (a : F32) : Bool := decide (fmag a < infMag)

/-- The pattern with sign `s` and magnitude bits `m`. -/
def fpack (s : Bool) (m : Nat) : F32 := BitVec.ofNat 32 ((if s then 2 ^ 31 else 0) + m)

/-- The absolute value of a finite pattern with magnitude bits `m`, in units of 2^-149. -/
def magUnits (m : Nat) : Nat :=
  if m < 2 ^ 23 then m else (2 ^ 23 + m % 2 ^ 23) * 2 ^ (m / 2 ^ 23 - 1)

/-- The value of a finite pattern, in units of 2^-149. -/
def fUnits (a : F32) : Int :=
  if fsign a then -(magUnits (fmag a) : Int) else (magUnits (fmag a) : Int)

/-- The magnitude bits of the binary32 value nearest `num / den` units, ties to even; an overflow
gives infinity (R20). -/
def roundMag (num den : Nat) : Nat :=
  let sh := Nat.log2 (num / den) - 23
  let d := den * 2 ^ sh
  let m := num / d
  let r := num % d
  let m' := if 2 * r < d ∨ (2 * r = d ∧ m % 2 = 0) then m else m + 1
  min (sh * 2 ^ 23 + m') infMag

/-- `num / den` units of 2^-149 with sign `s`, rounded to binary32 (R20). -/
def fround (s : Bool) (num den : Nat) : F32 := fpack s (roundMag num den)

/-- `-a`: the sign flip of R21. -/
def fneg (a : F32) : F32 := a ^^^ 0x80000000#32

/-- `|a|` of R21. -/
def fabs (a : F32) : F32 := a &&& 0x7FFFFFFF#32

/-- `a ⊕ b` of R20. -/
def fadd (q a b : F32) : F32 :=
  if fIsNaN a || fIsNaN b then q
  else if fIsInf a then (if fIsInf b && (fsign a != fsign b) then q else a)
  else if fIsInf b then b
  else if fUnits a + fUnits b = 0 then fpack (fsign a && fsign b) 0
  else fround (decide (fUnits a + fUnits b < 0)) (fUnits a + fUnits b).natAbs 1

/-- `a ⊖ b` of R20. -/
def fsub (q a b : F32) : F32 := fadd q a (fneg b)

/-- `a ⊗ b` of R20. -/
def fmul (q a b : F32) : F32 :=
  if fIsNaN a || fIsNaN b then q
  else if fIsInf a || fIsInf b then
    (if fmag a = 0 ∨ fmag b = 0 then q else fpack (fsign a != fsign b) infMag)
  else fround (fsign a != fsign b) (magUnits (fmag a) * magUnits (fmag b)) (2 ^ 149)

/-- `a ⊘ b` of R20. -/
def fdiv (q a b : F32) : F32 :=
  if fIsNaN a || fIsNaN b then q
  else if fIsInf a then (if fIsInf b then q else fpack (fsign a != fsign b) infMag)
  else if fIsInf b then fpack (fsign a != fsign b) 0
  else if fmag b = 0 then (if fmag a = 0 then q else fpack (fsign a != fsign b) infMag)
  else fround (fsign a != fsign b) (magUnits (fmag a) * 2 ^ 149) (magUnits (fmag b))

/-- An order-preserving integer key of a pattern that is no NaN; both zeros have key 0. -/
def fkey (a : F32) : Int := if fsign a then -(fmag a : Int) else (fmag a : Int)

/-- `a < b` of R21: false if either operand is NaN. -/
def flt (a b : F32) : Bool := !fIsNaN a && !fIsNaN b && decide (fkey a < fkey b)

/-- `a ≤ b` of R21: false if either operand is NaN. -/
def fle (a b : F32) : Bool := !fIsNaN a && !fIsNaN b && decide (fkey a ≤ fkey b)

/-- `min(a, b)` of R21. -/
def fmin (a b : F32) : F32 := if fle a b then a else b

/-- `clamp(v, lo, hi)` of R21; a NaN gives the lower bound. -/
def fclamp (v lo hi : F32) : F32 :=
  if flt v lo || fIsNaN v then lo else if flt hi v then hi else v

/-- `flush(y)` of R23, with the threshold `T_DN` as `t`. -/
def fflush (t y : F32) : F32 := if flt (fabs y) t then 0#32 else y

/-- `f32(i)` of R20. -/
def f32OfNat (i : Nat) : F32 := fround false (i * 2 ^ 149) 1

/-- The nearest natural number to `num / den`, ties up, for a quotient that is not negative
(`roundHalfAway` of R24). -/
def ratRoundHalfAway (num den : Nat) : Nat := (2 * num + den) / (2 * den)

/-- `roundHalfAway(p)` of R24, for a finite `p`. -/
def roundHalfAway (p : F32) : Int :=
  let m : Int := ratRoundHalfAway (magUnits (fmag p)) (2 ^ 149)
  if fsign p then -m else m

/-- `⌊p⌋` of R24, for a finite `p` that is not negative. -/
def ffloor (p : F32) : Nat := magUnits (fmag p) / 2 ^ 149

/-- `i mod L` of R24: the mathematical modulus in [0, L). -/
def wrapIndex (i : Int) (L : Nat) : Nat := (i % (L : Int)).toNat

/-- Any bit pattern turned into a NaN: a NaN stays as it is, so every NaN is a value of `nanOf` (R22). -/
def nanOf (b : F32) : F32 := if fIsNaN b then b else 0x7FC00000#32

/-- A numerics function of R40 as an operation: a NaN operand gives a NaN, and the payload of a NaN
result is drawn (R22). -/
def fnum (f : F32 → F32) (q x : F32) : F32 := if fIsNaN x || fIsNaN (f x) then q else f x

/-! The literals of the rules, each its nearest binary32 (R20). -/

def f0 : F32 := 0x00000000#32
def f0p1 : F32 := 0x3DCCCCCD#32
def f0p15 : F32 := 0x3E19999A#32
def f0p3 : F32 := 0x3E99999A#32
def f0p5 : F32 := 0x3F000000#32
def f0p6 : F32 := 0x3F19999A#32
def f0p625 : F32 := 0x3F200000#32
def f0p7 : F32 := 0x3F333333#32
def f0p9 : F32 := 0x3F666666#32
def f1 : F32 := 0x3F800000#32
def f6 : F32 := 0x40C00000#32
def f20 : F32 := 0x41A00000#32
def f100 : F32 := 0x42C80000#32
def f1000 : F32 := 0x447A0000#32

end Sys2Proof.Machine
end

