-- ==== Sys2Proof/Syntax.lean ====
section
/-! DEFINITION. The 29 commands of the opcode map (30_encoding.md R310), the 37 units (R320) and the ten
parameters (R330). -/

namespace Sys2Proof

/-- The kinds of unit (R2, R320). -/
inductive Kind where
  | DL | AP | APM | OPL | OPH | SATA | SATT | LFO | DZ
  deriving DecidableEq, Repr, Inhabited

/-- The 37 units, in the order of their numbers 1 to 37 (R320). -/
inductive UnitId where
  | PD | ILP | IHP | AP1 | AP2 | AP3 | AP4
  | MAP_A | DL1_A | SAT_A | DLP_A | DHP_A | TAP_A | DL2_A | XAP1_A | XAP2_A
  | MAP_B | DL1_B | SAT_B | DLP_B | DHP_B | TAP_B | DL2_B | XAP1_B | XAP2_B
  | LFO_A | LFO_B
  | DZ_A1 | DZ_A2 | DZ_AT | DZ_DEC | DZ_MIX | DZ_BILP | DZ_BIHP | DZ_BHF | DZ_BLF | DZ_DRV
  deriving DecidableEq, Repr, Inhabited

/-- The ten parameters, in the order of their indices 0 to 9 (R330). -/
inductive Param where
  | predelayMs | inputLowpassHz | inputHighpassHz | diffusion | decay | driveDB
  | hfDampingHz | lfDampingHz | mixPercent | smoothed
  deriving DecidableEq, Repr, Inhabited

/-- One constructor per row of the opcode map (R310). An operand word is held as the 32 bits it arrives
in (R303). The unit of a unit-level command is any unit here; `wellFormed` says which kinds a row
admits. -/
inductive Instr where
  | arenaReserve (cap : Word)
  | arenaCarve (b : Word)
  | engineCreate
  | engineInit
  | engineReset
  | readStatus
  | setParam (i : Param) (v : Word)
  | setControl (predelayMs inputLowpassHz inputHighpassHz diffusion decay driveDB hfDampingHz
      lfDampingHz mixPercent smoothed : Word)
  | readParam (i : Param)
  | processMono (x : Word)
  | processStereo (xL xR : Word)
  | dlProcess (k : UnitId) (x : Word)
  | dlSetDelay (k : UnitId) (m : Word)
  | dlReset (k : UnitId)
  | apProcess (k : UnitId) (x : Word)
  | apSetCoef (k : UnitId) (a : Word)
  | apSetDelay (k : UnitId) (m : Word)
  | apSetDepth (k : UnitId) (dp : Word)
  | apReset (k : UnitId)
  | lfoStep (k : UnitId)
  | lfoReset (k : UnitId)
  | opProcess (k : UnitId) (x : Word)
  | opSetCutoff (k : UnitId) (wc : Word)
  | opReset (k : UnitId)
  | satProcess (k : UnitId) (x : Word)
  | satSetDrive (k : UnitId) (dB : Word)
  | dzSmooth (k : UnitId) (x : Word)
  | dzSetFactor (k : UnitId) (b : Word)
  | dzPreset (k : UnitId) (v : Word)
  deriving DecidableEq, Repr, Inhabited

end Sys2Proof
end

