-- ==== Sys2Proof/Machine/Units.lean ====
section
/-! DEFINITION. The unit table (30_encoding.md R320, R321): each unit's number, its kind, and its place in
the bank of state that its kind has. -/

namespace Sys2Proof.Machine

/-- All units in number order (R320). -/
def allUnits : List UnitId :=
  [.PD, .ILP, .IHP, .AP1, .AP2, .AP3, .AP4,
   .MAP_A, .DL1_A, .SAT_A, .DLP_A, .DHP_A, .TAP_A, .DL2_A, .XAP1_A, .XAP2_A,
   .MAP_B, .DL1_B, .SAT_B, .DLP_B, .DHP_B, .TAP_B, .DL2_B, .XAP1_B, .XAP2_B,
   .LFO_A, .LFO_B,
   .DZ_A1, .DZ_A2, .DZ_AT, .DZ_DEC, .DZ_MIX, .DZ_BILP, .DZ_BIHP, .DZ_BHF, .DZ_BLF, .DZ_DRV]

/-- The UNIT number of a unit (R320). -/
def unitNumber : UnitId → BitVec 8
  | .PD => 1 | .ILP => 2 | .IHP => 3 | .AP1 => 4 | .AP2 => 5 | .AP3 => 6 | .AP4 => 7
  | .MAP_A => 8 | .DL1_A => 9 | .SAT_A => 10 | .DLP_A => 11 | .DHP_A => 12 | .TAP_A => 13
  | .DL2_A => 14 | .XAP1_A => 15 | .XAP2_A => 16
  | .MAP_B => 17 | .DL1_B => 18 | .SAT_B => 19 | .DLP_B => 20 | .DHP_B => 21 | .TAP_B => 22
  | .DL2_B => 23 | .XAP1_B => 24 | .XAP2_B => 25
  | .LFO_A => 26 | .LFO_B => 27
  | .DZ_A1 => 28 | .DZ_A2 => 29 | .DZ_AT => 30 | .DZ_DEC => 31 | .DZ_MIX => 32
  | .DZ_BILP => 33 | .DZ_BIHP => 34 | .DZ_BHF => 35 | .DZ_BLF => 36 | .DZ_DRV => 37

/-- The unit a UNIT field names; none for 0 and 38 to 255 (R340 (c)). -/
def unitOfNumber (n : BitVec 8) : Option UnitId := allUnits.find? (fun k => unitNumber k == n)

/-- The kind of a unit, which never changes (R320, R321). -/
def unitKind : UnitId → Kind
  | .PD | .DL1_A | .DL2_A | .DL1_B | .DL2_B => .DL
  | .AP1 | .AP2 | .AP3 | .AP4 | .TAP_A | .XAP1_A | .XAP2_A | .TAP_B | .XAP1_B | .XAP2_B => .AP
  | .MAP_A | .MAP_B => .APM
  | .ILP | .DLP_A | .DLP_B => .OPL
  | .IHP | .DHP_A | .DHP_B => .OPH
  | .SAT_A => .SATA
  | .SAT_B => .SATT
  | .LFO_A | .LFO_B => .LFO
  | .DZ_A1 | .DZ_A2 | .DZ_AT | .DZ_DEC | .DZ_MIX | .DZ_BILP | .DZ_BIHP | .DZ_BHF | .DZ_BLF
  | .DZ_DRV => .DZ

/-! The UNIT column of R310: the kinds a family of rows admits. -/

def dlKinds : List Kind := [.DL]
def apKinds : List Kind := [.AP, .APM]
def apmKinds : List Kind := [.APM]
def lfoKinds : List Kind := [.LFO]
def opKinds : List Kind := [.OPL, .OPH]
def satKinds : List Kind := [.SATA, .SATT]
def dzKinds : List Kind := [.DZ]

/-- Whether a unit is of one of the kinds a row admits (R340 (c)). -/
def admits (kinds : List Kind) (k : UnitId) : Bool := kinds.contains (unitKind k)

/-- The seventeen delay-owning units (R321), in number order. -/
def delayUnits : List UnitId :=
  [.PD, .AP1, .AP2, .AP3, .AP4, .MAP_A, .DL1_A, .TAP_A, .DL2_A, .XAP1_A, .XAP2_A,
   .MAP_B, .DL1_B, .TAP_B, .DL2_B, .XAP1_B, .XAP2_B]

/-- The sixteen fixed delay units: every delay-owning unit but PD (R10). -/
def fixedDelayUnits : List UnitId := delayUnits.tail

/-- The six one-pole units, in number order. -/
def opUnits : List UnitId := [.ILP, .IHP, .DLP_A, .DHP_A, .DLP_B, .DHP_B]

/-- The bank place of a delay-owning unit. -/
def delaySlot : UnitId → Option (Fin 17)
  | .PD => some 0 | .AP1 => some 1 | .AP2 => some 2 | .AP3 => some 3 | .AP4 => some 4
  | .MAP_A => some 5 | .DL1_A => some 6 | .TAP_A => some 7 | .DL2_A => some 8
  | .XAP1_A => some 9 | .XAP2_A => some 10
  | .MAP_B => some 11 | .DL1_B => some 12 | .TAP_B => some 13 | .DL2_B => some 14
  | .XAP1_B => some 15 | .XAP2_B => some 16
  | _ => none

/-- The bank place of an allpass, modulated or not. -/
def allpassSlot : UnitId → Option (Fin 12)
  | .AP1 => some 0 | .AP2 => some 1 | .AP3 => some 2 | .AP4 => some 3
  | .MAP_A => some 4 | .TAP_A => some 5 | .XAP1_A => some 6 | .XAP2_A => some 7
  | .MAP_B => some 8 | .TAP_B => some 9 | .XAP1_B => some 10 | .XAP2_B => some 11
  | _ => none

/-- The bank place of a modulated allpass. -/
def modSlot : UnitId → Option (Fin 2)
  | .MAP_A => some 0 | .MAP_B => some 1 | _ => none

/-- The bank place of a one-pole filter. -/
def poleSlot : UnitId → Option (Fin 6)
  | .ILP => some 0 | .IHP => some 1 | .DLP_A => some 2 | .DHP_A => some 3 | .DLP_B => some 4
  | .DHP_B => some 5 | _ => none

/-- The bank place of a saturator. -/
def satSlot : UnitId → Option (Fin 2)
  | .SAT_A => some 0 | .SAT_B => some 1 | _ => none

/-- The bank place of an oscillator. -/
def lfoSlot : UnitId → Option (Fin 2)
  | .LFO_A => some 0 | .LFO_B => some 1 | _ => none

/-- The bank place of a dezipper; dezipper `i` smooths target `Ti` (46_dezipper.md). -/
def dzSlot : UnitId → Option (Fin 10)
  | .DZ_A1 => some 0 | .DZ_A2 => some 1 | .DZ_AT => some 2 | .DZ_DEC => some 3 | .DZ_MIX => some 4
  | .DZ_BILP => some 5 | .DZ_BIHP => some 6 | .DZ_BHF => some 7 | .DZ_BLF => some 8
  | .DZ_DRV => some 9 | _ => none

/-- The value a bank holds for a unit; `d` for a unit that has no place in it. -/
def bankGet {α : Type} {n : Nat} (slot : UnitId → Option (Fin n)) (v : Vector α n) (d : α)
    (k : UnitId) : α :=
  match slot k with
  | some i => v[i]
  | none => d

/-- A bank with a unit's value replaced; unchanged for a unit that has no place in it. -/
def bankSet {α : Type} {n : Nat} (slot : UnitId → Option (Fin n)) (v : Vector α n) (k : UnitId)
    (x : α) : Vector α n :=
  match slot k with
  | some i => v.set i x
  | none => v

/-- The parameter an index names (R330); none from 10 on (R340 (e)). -/
def paramOfIndex (i : BitVec 16) : Option Param :=
  [Param.predelayMs, .inputLowpassHz, .inputHighpassHz, .diffusion, .decay, .driveDB, .hfDampingHz,
    .lfDampingHz, .mixPercent, .smoothed][i.toNat]?

/-- The index of a parameter (R330). -/
def paramIndex : Param → BitVec 16
  | .predelayMs => 0 | .inputLowpassHz => 1 | .inputHighpassHz => 2 | .diffusion => 3 | .decay => 4
  | .driveDB => 5 | .hfDampingHz => 6 | .lfDampingHz => 7 | .mixPercent => 8 | .smoothed => 9

end Sys2Proof.Machine
end

