-- ==== Sys2Proof/Config.lean ====
section
/-! DEFINITION. What an implementation fixes (00_scope.md R10): the named constants whose value R10 gives,
the configuration record, the OPEN values and functions as constants without a body, and the free
values. -/

namespace Sys2Proof

open Machine

/-! The rows of R10 with a decided value. -/

/-- `ALPHA_MAX` = 1 - 2^-24 (R10, D25). -/
def Config.alphaMax : F32 := 0x3F7FFFFF#32

/-- `WC_MAX`, the largest binary32 below pi (R10, D20). -/
def Config.wcMax : F32 := 0x40490FDA#32

/-- `TWO_PI_F` = binary32(2 pi) (R10, D28). -/
def Config.twoPi : F32 := 0x40C90FDB#32

/-- `DRIVE_MAX_DB` = 60 (R10, D27). -/
def Config.driveMaxDb : F32 := 0x42700000#32

/-- `FLT_MAX`, the largest finite binary32 (42_allpass.md R630). -/
def Config.fltMax : F32 := 0x7F7FFFFF#32

/-- A tap name that the three-term lists of R1240 may hold. -/
inductive OffTap where
  | t1_A | t2_A | t3_A | t1_B | t2_B | t3_B
  deriving DecidableEq, Repr, Inhabited

/-- A tap name that the five-term lists of R1240 may hold. -/
inductive OnTap where
  | off (t : OffTap)
  | t4_A | t5_A | t4_B | t5_B
  deriving DecidableEq, Repr, Inhabited

/-- `WET_TAPS`: four ordered lists of tap names, of the shape R1240 fixes. -/
structure WetTaps where
  offL : Vector OffTap 3
  offR : Vector OffTap 3
  onL : Vector OnTap 5
  onR : Vector OnTap 5
  deriving DecidableEq, Repr, Inhabited

/-- The default table of R1240. -/
def WetTaps.default : WetTaps where
  offL := #v[.t3_A, .t1_B, .t2_B]
  offR := #v[.t3_B, .t1_A, .t2_A]
  onL := #v[.t5_A, .t4_A, .off .t3_A, .off .t1_B, .off .t2_B]
  onR := #v[.t5_B, .t4_B, .off .t3_B, .off .t1_A, .off .t2_A]

/-- The configuration of R10: the parameters that have no fixed value. `refLen` and `maxLen` are `R_k`
and `MAXLEN_k` in unit order. -/
structure Cfg where
  fs : F32
  fsRef : F32
  refLen : Vector Nat 16
  maxLen : Vector Nat 17
  lfoRateA : F32
  lfoRateB : F32
  depthA : F32
  depthB : F32
  lfoTableMax : Nat
  alphaMod : F32
  dezipEnabled : Bool
  dezipBeta : F32
  tDn : F32
  decayMax : F32
  wetTaps : WetTaps
  deriving DecidableEq, Repr, Inhabited

/-- The OPEN rows of R10: no value is given or chosen for them. -/
structure OpenParams where
  fsRef : F32
  refLen : Vector Nat 16
  maxLen : Vector Nat 17
  lfoRateA : F32
  lfoRateB : F32
  depthA : F32
  depthB : F32
  lfoTableMax : Nat
  alphaMod : F32
  dezipEnabled : Bool
  dezipBeta : F32
  deriving DecidableEq, Repr, Inhabited

/-- A block with the given OPEN values, and FS, T_DN, DECAY_MAX and WET_TAPS at the values R10 gives:
48000, the binary32 nearest 3.0e-34, binary32(0.85) and the default table. -/
def OpenParams.toCfg (o : OpenParams) : Cfg where
  fs := 0x473B8000#32
  fsRef := o.fsRef
  refLen := o.refLen
  maxLen := o.maxLen
  lfoRateA := o.lfoRateA
  lfoRateB := o.lfoRateB
  depthA := o.depthA
  depthB := o.depthB
  lfoTableMax := o.lfoTableMax
  alphaMod := o.alphaMod
  dezipEnabled := o.dezipEnabled
  dezipBeta := o.dezipBeta
  tDn := 0x07C7625B#32
  decayMax := 0x3F59999A#32
  wetTaps := WetTaps.default

/-- Finite and above zero. -/
def positiveFinite (a : F32) : Bool := fIsFinite a && flt f0 a

/-- In [0, ALPHA_MAX]. -/
def inAlphaRange (a : F32) : Bool := fle f0 a && fle a Config.alphaMax

/-- Configuration well-formedness (R45). The shape of WET_TAPS is kept by its type. -/
def Cfg.wf (c : Cfg) : Bool :=
  positiveFinite c.fs && positiveFinite c.fsRef
  && positiveFinite c.lfoRateA && positiveFinite c.lfoRateB && (c.lfoRateA != c.lfoRateB)
  && positiveFinite c.depthA && positiveFinite c.depthB && (c.depthA != c.depthB)
  && c.maxLen.toList.all (fun n => decide (1 ≤ n))
  && inAlphaRange c.alphaMod && inAlphaRange c.dezipBeta
  && flt f0 c.tDn && decide (1 ≤ c.lfoTableMax)

/-- `MAXLEN_k` (R10). -/
def Cfg.maxLenOf (c : Cfg) (k : UnitId) : Nat := bankGet delaySlot c.maxLen 0 k

/-- `R_k` of a fixed delay unit (R10): the places of `refLen` are those of the delay bank after PD. -/
def Cfg.refLenOf (c : Cfg) (k : UnitId) : Nat :=
  match delaySlot k with
  | some i => if i.val = 0 then 0 else c.refLen.toList.getD (i.val - 1) 0
  | none => 0

/-! The OPEN constants and functions. -/

/-- The OPEN parameters of the block (R10): no value is known of them. -/
opaque Config.openParams : OpenParams

/-- The functions of R40. Nothing is assumed of them. -/
opaque Config.expF : F32 → F32
opaque Config.atanF : F32 → F32
opaque Config.tanhF : F32 → F32
opaque Config.sinF : F32 → F32
opaque Config.pow10F : F32 → F32

/-! The free values. Each is a constant without a body, applied to the draw counter of the state. -/

/-- The bits drawn for a NaN (R22): argument one is the draw counter, argument two the operation's place
in its step. -/
opaque Config.nanDraw : Nat → Nat → F32

/-- The choice among the agents that have a command to take (R300). -/
opaque Config.agentDraw : Nat → Nat

/-- The choice of SET_CONTROL's next write (R1110): argument two is how many writes are still unplaced. -/
opaque Config.orderDraw : Nat → Nat → Nat

/-- The predelay where R1140's quotient is no number it has a floor for (a NaN or a negative value). -/
opaque Config.lengthDraw : Nat → Nat

/-- The configuration a fallback stands on: TINY of 95_test_vectors.md. -/
def Config.tiny : Cfg where
  fs := 0x473B8000#32
  fsRef := 0x473B8000#32
  refLen := #v[1, 1, 1, 1, 1, 3, 1, 2, 1, 1, 1, 4, 1, 2, 1, 1]
  maxLen := Vector.replicate 17 8
  lfoRateA := 0x463B8000#32
  lfoRateB := 0x45BB8000#32
  depthA := 0x3F800000#32
  depthB := 0x40000000#32
  lfoTableMax := 16
  alphaMod := 0x3F000000#32
  dezipEnabled := false
  dezipBeta := 0x3F7FBE77#32
  tDn := 0x07C7625B#32
  decayMax := 0x3F59999A#32
  wetTaps := WetTaps.default

/-- The configuration of the block at State.reset. Every well-formed choice of the OPEN rows is a value of
it and it is always well-formed (R45): an ill-formed choice, which describes no block, counts as TINY. -/
def Config.cfg : Cfg := if Config.openParams.toCfg.wf then Config.openParams.toCfg else Config.tiny

end Sys2Proof
end

