-- ==== Sys2Proof/Machine/Sparse.lean ====
section
/-! DEFINITION. Sparse data by key, in one canonical form: keys strictly rising, and no entry equal to what
an unlisted key reads as. The arena's bytes and the agents' ports are both held so, so that equal contents
are equal data. -/

namespace Sys2Proof.Machine

/-- The value at a key; `d` where none is listed. -/
def sparseGet {α : Type} (d : α) : List (Nat × α) → Nat → α
  | [], _ => d
  | (k, v) :: rest, i => if i = k then v else sparseGet d rest i

/-- An entry placed before the first larger key. -/
def sparseInsert {α : Type} (i : Nat) (v : α) : List (Nat × α) → List (Nat × α)
  | [] => [(i, v)]
  | (k, x) :: rest => if i < k then (i, v) :: (k, x) :: rest else (k, x) :: sparseInsert i v rest

/-- The entries outside a range of keys: every key of the range then reads as unlisted. -/
def sparseClear {α : Type} (l : List (Nat × α)) (lo len : Nat) : List (Nat × α) :=
  l.filter (fun e => decide (e.1 < lo) || decide (lo + len ≤ e.1))

/-- The value at a key replaced, keeping the canonical form: writing `d` removes the entry. -/
def sparsePut {α : Type} [DecidableEq α] (d : α) (l : List (Nat × α)) (i : Nat) (v : α) :
    List (Nat × α) :=
  if v = d then sparseClear l i 1 else sparseInsert i v (sparseClear l i 1)

/-- Keys strictly rising. -/
def sparseSorted {α : Type} : List (Nat × α) → Bool
  | [] => true
  | (k, _) :: rest => rest.all (fun e => decide (k < e.1)) && sparseSorted rest

/-- The canonical form. -/
def sparseWf {α : Type} [DecidableEq α] (d : α) (l : List (Nat × α)) : Bool :=
  sparseSorted l && l.all (fun e => decide (e.2 ≠ d))

/-- The arena's bytes (10_state.md R150), by byte offset. -/
abbrev Memory := List Host.Cell

/-- What an unlisted arena byte reads as: 0, as ARENA_RESERVE leaves every byte (20_memory.md R201).
DESIGN CHOICE for the time before it, when no arena byte exists (log 12). -/
def Memory.unlisted : Byte := 0

/-- The canonical form of the arena's bytes. -/
def Memory.wf (m : Memory) : Bool := sparseWf Memory.unlisted m

/-- One byte read. -/
def memReadByte (m : Memory) (a : Nat) : Byte := sparseGet Memory.unlisted m a

/-- One byte written. -/
def memWriteByte (m : Memory) (a : Nat) (b : Byte) : Memory := sparsePut Memory.unlisted m a b

/-- `MemRead(a, 4)` (R31, R210): the byte at `a` is bits 7:0 (PRESUMED, log 13). -/
def memReadWord (m : Memory) (a : Nat) : Word :=
  ((memReadByte m (a + 3) ++ memReadByte m (a + 2)) ++ memReadByte m (a + 1)) ++ memReadByte m a

/-- `MemWrite(a, 4, v)` (R31, R210). -/
def memWriteWord (m : Memory) (a : Nat) (v : Word) : Memory :=
  memWriteByte (memWriteByte (memWriteByte (memWriteByte m a (v.extractLsb' 0 8))
    (a + 1) (v.extractLsb' 8 8)) (a + 2) (v.extractLsb' 16 8)) (a + 3) (v.extractLsb' 24 8)

/-- `len` bytes from `lo` on made 0: the loops over `BufWrite(k, i, +0.0)` of R520, R640, R1310 and
R1320, done at once. -/
def memClear (m : Memory) (lo len : Nat) : Memory := sparseClear m lo len

end Sys2Proof.Machine
end

