-- ==== Sys2Proof/Machine/State.lean ====
section
/-! DEFINITION. The state of the block (10_state.md R100 to R161) as plain data, why a step can stop, and
the state after power-on reset. -/

namespace Sys2Proof.Machine

/-- The fault codes of 60_exceptions.md R1601. They are the block's own faults: raising one is a NEXT state
of the model, with FAULTED set. -/
inductive FaultCode where
  | none | illegalCommand | lifecycle | arenaOverflow | delayCapacity | lfoConfig
  deriving DecidableEq, Repr, Inhabited

/-- Why a step stops. None of these is a fault of the block's own taxonomy. -/
inductive Fault where
  /-- Raised by `step` when no agent's queue holds a command that can be taken and the block is not
  faulted: the block makes no step (R300, R1675). Safe: the model stops where the block waits. -/
  | idle
  /-- Raised by `step` when FAULTED = 1 and no queue has a legal READ_STATUS at its head, and by a meaning
  called on a faulted state: the command is not accepted and its agent is stuck (R1620). Safe. -/
  | stuck
  /-- Raised by a meaning whose unit has a buffer region that does not lie in the arena, a write cursor
  outside its region, or an oscillator phase outside its table: the access would be to storage that does
  not exist (R200, R212). No run reaches such a state (R131, R1310). Safe. -/
  | unitState
  deriving DecidableEq, Repr

/-- Why a step has no meaning. -/
inductive Refusal where
  /-- An instruction whose arm in `exec` has no meaning yet. Raised by `exec` alone. Safe. -/
  | notModelled (mnemonic : String)
  deriving DecidableEq, Repr

/-- The ten parameter registers (R120, R121): nine binary32 values and one bit. -/
structure Params where
  predelayMs : F32
  inputLowpassHz : F32
  inputHighpassHz : F32
  diffusion : F32
  decay : F32
  driveDB : F32
  hfDampingHz : F32
  lfDampingHz : F32
  mixPercent : F32
  smoothed : Bool
  deriving DecidableEq, Repr

/-- The power-on column of R121. -/
def Params.powerOn : Params where
  predelayMs := 0x00000000#32
  inputLowpassHz := 0x46ABE000#32
  inputHighpassHz := 0x41200000#32
  diffusion := 0x3F000000#32
  decay := 0x3F000000#32
  driveDB := 0x3DCCCCCD#32
  hfDampingHz := 0x469C4000#32
  lfDampingHz := 0x41200000#32
  mixPercent := 0x42C80000#32
  smoothed := false

/-- The arena (R150). -/
structure Arena where
  cap : Nat
  off : Nat
  mem : Memory
  deriving DecidableEq, Repr

/-- The fields every delay-owning unit has (R130): maximum length, arena offset, current delay length,
write cursor. The buffer itself is in the arena. -/
structure Delay where
  L : Nat
  base : Nat
  n : Nat
  w : Nat
  deriving DecidableEq, Repr

/-- The fields a modulated allpass has besides (R130): the depth and the linked oscillator. -/
structure Modulation where
  depth : F32
  lfo : UnitId
  deriving DecidableEq, Repr

/-- The fields of a one-pole filter (R130). -/
structure OnePole where
  beta : F32
  s : F32
  deriving DecidableEq, Repr

/-- The fields of an oscillator (R130, R135). -/
structure Oscillator where
  N : Nat
  table : List F32
  idx : Nat
  deriving DecidableEq, Repr

/-- The fields of a dezipper (R130). -/
structure Dezipper where
  beta : F32
  last : F32
  deriving DecidableEq, Repr

/-- One agent's port (R300): its command queue and its response channel, oldest word first, and the
register writes of a SET_CONTROL it has begun that are not yet performed, in the order drawn (R1110). -/
structure Agent where
  queue : List Word
  resp : List Word
  pending : List (Param × Word)
  deriving DecidableEq, Repr

/-- An agent with nothing queued, nothing to collect and nothing begun: what an unlisted agent is. -/
def Agent.fresh : Agent := ⟨[], [], []⟩

/-- The state of the block (R100), the configuration of the step (R10) and the model's two counters. -/
structure State where
  /-- The configuration (R10), fixed for the block's lifetime; no step changes it. -/
  cfg : Cfg
  /-- RESERVED (R105). -/
  reserved : Bool
  /-- CREATED (R105). -/
  created : Bool
  /-- READY (R105). -/
  ready : Bool
  /-- FAULTED (R105). -/
  faulted : Bool
  /-- FAULT_CODE (R110, R1601). -/
  faultCode : FaultCode
  /-- The parameter registers (R120). -/
  params : Params
  /-- The arena (R150). -/
  arena : Arena
  /-- L, base, n and w of the delay-owning units (R130). -/
  delays : Vector Delay 17
  /-- alpha of the allpass units (R130). -/
  alphas : Vector F32 12
  /-- depth and lfo of the modulated allpass units (R130). -/
  mods : Vector Modulation 2
  /-- beta and s of the one-pole units (R130). -/
  poles : Vector OnePole 6
  /-- driveDB of the saturators (R130). -/
  drives : Vector F32 2
  /-- N, table and idx of the oscillators (R130). -/
  oscs : Vector Oscillator 2
  /-- beta and last of the dezippers (R130). -/
  dezips : Vector Dezipper 10
  /-- The cross-feedback accumulator of branch A (R140). -/
  xfbA : F32
  /-- The cross-feedback accumulator of branch B (R140). -/
  xfbB : F32
  /-- The agents' ports by agent number; an unlisted agent's port is `Agent.fresh` (R300). -/
  agents : List (Nat × Agent)
  /-- The MODEL's own: the agent whose command is being executed. -/
  cur : Nat
  /-- The MODEL's own: how many times free values have been drawn. -/
  draws : Nat
  deriving DecidableEq, Repr

/-- The values power-on reset leaves (R160, R1701) in a block with configuration `c`. The unit fields and
the accumulators are unspecified there; the model names a value for each (DESIGN CHOICE, logs 10, 11). -/
def State.powerOn (c : Cfg) (draws : Nat) : State where
  cfg := c
  reserved := false
  created := false
  ready := false
  faulted := false
  faultCode := .none
  params := Params.powerOn
  arena := ⟨0, 0, []⟩
  delays := Vector.replicate 17 ⟨0, 0, 0, 0⟩
  alphas := Vector.replicate 12 0#32
  mods := #v[⟨0#32, .LFO_A⟩, ⟨0#32, .LFO_B⟩]
  poles := Vector.replicate 6 ⟨0#32, 0#32⟩
  drives := Vector.replicate 2 0#32
  oscs := Vector.replicate 2 ⟨0, [], 0⟩
  dezips := Vector.replicate 10 ⟨0#32, 0#32⟩
  xfbA := 0#32
  xfbB := 0#32
  agents := []
  cur := 0
  draws := draws

/-- The machine right after power-on reset (R160, R1701). -/
def State.reset : State := State.powerOn Config.cfg 0

end Sys2Proof.Machine
end

