-- ==== Sys2Proof/Machine/Flags.lean ====
section
/-! DEFINITION. The status word (10_state.md R110, R111; 60_exceptions.md R1601). The block has no
arithmetic flags. -/

namespace Sys2Proof.Machine

/-- The value of a fault code (R1601). -/
def FaultCode.code : FaultCode → BitVec 8
  | .none => 0x00
  | .illegalCommand => 0x01
  | .lifecycle => 0x02
  | .arenaOverflow => 0x03
  | .delayCapacity => 0x04
  | .lfoConfig => 0x05

/-- The STATUS word (R110): bit 0 RESERVED, bit 1 CREATED, bit 2 READY, bit 3 FAULTED, bits 15:8
FAULT_CODE, which reads 0 while FAULTED = 0; every other bit reads 0. -/
def State.statusWord (s : State) : Word :=
  ((0#16 ++ (if s.faulted then s.faultCode.code else 0#8)) ++ 0#4)
    ++ (((BitVec.ofBool s.faulted ++ BitVec.ofBool s.ready) ++ BitVec.ofBool s.created)
      ++ BitVec.ofBool s.reserved)

end Sys2Proof.Machine
end

