-- ==== Sys2Proof/Machine/Operands.lean ====
section
/-! DEFINITION. Operands (00_scope.md R32, 30_encoding.md R303), and the parameter registers as operands
(10_state.md R120 to R122). -/

namespace Sys2Proof.Machine

/-- `f32op(j)`: the operand word as a binary32 pattern, unchanged (R303). -/
def f32op (w : Word) : F32 := w

/-- `u32op(j)`: the operand word as an unsigned integer (R303). -/
def u32op (w : Word) : Nat := w.toNat

/-- The range a binary32 parameter register is clamped to (R121); register 9 has none. -/
def paramRange : Param → F32 × F32
  | .predelayMs => (f0, 0x7F800000#32)
  | .inputLowpassHz => (0x41200000#32, 0x46ABE000#32)
  | .inputHighpassHz => (0x41200000#32, 0x46ABE000#32)
  | .diffusion => (f0, f1)
  | .decay => (f0, f1)
  | .driveDB => (f0, Config.driveMaxDb)
  | .hfDampingHz => (0x43C80000#32, 0x469C4000#32)
  | .lfDampingHz => (0x41200000#32, 0x453B8000#32)
  | .mixPercent => (f0, f100)
  | .smoothed => (f0, f1)

/-- The value a binary32 parameter register takes from an operand (R121, R1101). -/
def paramClamp (p : Param) (v : F32) : F32 := fclamp v (paramRange p).1 (paramRange p).2

/-- `SETP(i, op)`, the body of SET_PARAM (R1101): one register is written. -/
def setParamValue (ps : Params) (p : Param) (v : Word) : Params :=
  match p with
  | .predelayMs => { ps with predelayMs := paramClamp .predelayMs (f32op v) }
  | .inputLowpassHz => { ps with inputLowpassHz := paramClamp .inputLowpassHz (f32op v) }
  | .inputHighpassHz => { ps with inputHighpassHz := paramClamp .inputHighpassHz (f32op v) }
  | .diffusion => { ps with diffusion := paramClamp .diffusion (f32op v) }
  | .decay => { ps with decay := paramClamp .decay (f32op v) }
  | .driveDB => { ps with driveDB := paramClamp .driveDB (f32op v) }
  | .hfDampingHz => { ps with hfDampingHz := paramClamp .hfDampingHz (f32op v) }
  | .lfDampingHz => { ps with lfDampingHz := paramClamp .lfDampingHz (f32op v) }
  | .mixPercent => { ps with mixPercent := paramClamp .mixPercent (f32op v) }
  | .smoothed => { ps with smoothed := decide (u32op v ≠ 0) }

/-- `param[i]` as a response word (R1120): the pattern of registers 0 to 8, and 0 or 1 for register 9. -/
def paramWord (ps : Params) : Param → Word
  | .predelayMs => ps.predelayMs
  | .inputLowpassHz => ps.inputLowpassHz
  | .inputHighpassHz => ps.inputHighpassHz
  | .diffusion => ps.diffusion
  | .decay => ps.decay
  | .driveDB => ps.driveDB
  | .hfDampingHz => ps.hfDampingHz
  | .lfDampingHz => ps.lfDampingHz
  | .mixPercent => ps.mixPercent
  | .smoothed => if ps.smoothed then 1#32 else 0#32

end Sys2Proof.Machine
end

