-- ==== Sys2Proof/Machine/Ops.lean ====
section
/-! DEFINITION. The shared operations on the state: unit fields (00_scope.md R30), buffers (R31), responses
(R32), raising a fault (R33, 60_exceptions.md R1605), legality (49_lifecycle.md R1301), free values (R22),
and the agents' ports (30_encoding.md R300). -/

namespace Sys2Proof.Machine

/-- A step's outcome. -/
abbrev Result := Host.Outcome State Fault Refusal

/-! ## Free values -/

/-- The NaN drawn for the operation at place `site` of the current step (R22). -/
def State.nan (s : State) (site : Nat) : F32 := nanOf (Config.nanDraw s.draws site)

/-- The draw counter moved on, so that the next step draws afresh. -/
def State.tick (s : State) : State := { s with draws := s.draws + 1 }

/-! ## Unit fields (R30, R130) -/

/-- `unit[k]`'s L, base, n and w. -/
def State.delay (s : State) (k : UnitId) : Delay := bankGet delaySlot s.delays ⟨0, 0, 0, 0⟩ k
def State.setDelay (s : State) (k : UnitId) (u : Delay) : State :=
  { s with delays := bankSet delaySlot s.delays k u }

/-- `unit[k].alpha`. -/
def State.alpha (s : State) (k : UnitId) : F32 := bankGet allpassSlot s.alphas f0 k
def State.setAlpha (s : State) (k : UnitId) (a : F32) : State :=
  { s with alphas := bankSet allpassSlot s.alphas k a }

/-- `unit[k]`'s depth and lfo. -/
def State.modulation (s : State) (k : UnitId) : Modulation := bankGet modSlot s.mods ⟨f0, .LFO_A⟩ k
def State.setModulation (s : State) (k : UnitId) (m : Modulation) : State :=
  { s with mods := bankSet modSlot s.mods k m }

/-- `unit[k]`'s beta and s, of a one-pole filter. -/
def State.pole (s : State) (k : UnitId) : OnePole := bankGet poleSlot s.poles ⟨f0, f0⟩ k
def State.setPole (s : State) (k : UnitId) (p : OnePole) : State :=
  { s with poles := bankSet poleSlot s.poles k p }

/-- `unit[k].driveDB`. -/
def State.drive (s : State) (k : UnitId) : F32 := bankGet satSlot s.drives f0 k
def State.setDrive (s : State) (k : UnitId) (d : F32) : State :=
  { s with drives := bankSet satSlot s.drives k d }

/-- `unit[k]`'s N, table and idx. -/
def State.osc (s : State) (k : UnitId) : Oscillator := bankGet lfoSlot s.oscs ⟨0, [], 0⟩ k
def State.setOsc (s : State) (k : UnitId) (o : Oscillator) : State :=
  { s with oscs := bankSet lfoSlot s.oscs k o }

/-- `unit[k]`'s beta and last, of a dezipper. -/
def State.dezip (s : State) (k : UnitId) : Dezipper := bankGet dzSlot s.dezips ⟨f0, f0⟩ k
def State.setDezip (s : State) (k : UnitId) (d : Dezipper) : State :=
  { s with dezips := bankSet dzSlot s.dezips k d }

/-! ## Buffers (R31) -/

/-- The arena byte offset of cell `i` of unit `k`'s buffer. -/
def State.cellAddr (s : State) (k : UnitId) (i : Nat) : Nat := (s.delay k).base + 4 * i

/-- `BufRead(k, i)`. -/
def State.bufRead (s : State) (k : UnitId) (i : Nat) : F32 :=
  memReadWord s.arena.mem (s.cellAddr k i)

/-- The arena's bytes replaced. -/
def State.setMem (s : State) (m : Memory) : State := { s with arena := { s.arena with mem := m } }

/-- `BufWrite(k, i, v)`. -/
def State.bufWrite (s : State) (k : UnitId) (i : Nat) (v : F32) : State :=
  s.setMem (memWriteWord s.arena.mem (s.cellAddr k i) v)

/-- Every cell of unit `k`'s buffer made +0.0 and its write cursor 0: the body of DL_RESET and AP_RESET
(R520, R640). -/
def State.clearDelay (s : State) (k : UnitId) : State :=
  (s.setMem (memClear s.arena.mem (s.delay k).base (4 * (s.delay k).L))).setDelay k
    { s.delay k with w := 0 }

/-- Unit `k`'s buffer region lies in the arena. -/
def State.regionOk (s : State) (k : UnitId) : Bool :=
  decide ((s.delay k).base + 4 * (s.delay k).L ≤ s.arena.cap)

/-- Unit `k`'s buffer region lies in the arena and its write cursor in the region (R131). -/
def State.delayOk (s : State) (k : UnitId) : Bool :=
  s.regionOk k && decide ((s.delay k).w < (s.delay k).L)

/-- Oscillator `j`'s phase lies in its table (R131). -/
def State.oscOk (s : State) (j : UnitId) : Bool :=
  decide ((s.osc j).idx < (s.osc j).N) && decide ((s.osc j).table.length = (s.osc j).N)

/-! ## The agents' ports (R300) -/

/-- The port of agent `a`. -/
def State.agent (s : State) (a : Nat) : Agent := sparseGet Agent.fresh s.agents a

/-- Agent `a`'s port replaced, the list of ports kept canonical. -/
def State.setAgent (s : State) (a : Nat) (ag : Agent) : State :=
  { s with agents := sparsePut Agent.fresh s.agents a ag }

/-- `respond v` (R32): the word is appended to the issuing agent's response channel. -/
def State.respond (s : State) (v : Word) : State :=
  s.setAgent s.cur { s.agent s.cur with resp := (s.agent s.cur).resp ++ [v] }

/-- A host agent issues words (R300): an event outside the step. -/
def State.issue (s : State) (a : Nat) (ws : List Word) : State :=
  s.setAgent a { s.agent a with queue := (s.agent a).queue ++ ws }

/-- A host agent collects its responses (R300): an event outside the step. -/
def State.collect (s : State) (a : Nat) : State := s.setAgent a { s.agent a with resp := [] }

/-- Power-on reset (R1701): an event outside the step that may come between any two. The configuration is
fixed for the block's lifetime, and the draw counter goes on, so that nothing drawn before the reset is
drawn again. -/
def State.powerOnReset (s : State) : State := State.powerOn s.cfg s.draws

/-! ## Raising a fault -/

/-- `raise Fault(code)`, the block's trap entry (R33, R1605): FAULTED and FAULT_CODE are set and nothing
else changes. There is no saved state and no handler, and there is no return from it: only power-on reset
leaves the faulted state (R1620). -/
def State.raise (s : State) (c : FaultCode) : State := { s with faulted := true, faultCode := c }

/-! ## Legality (R1301, R1625) -/

/-- An engine-level command: not accepted while FAULTED = 1 (R1620), LIFECYCLE where its condition is
false (R1615), its body otherwise. -/
def State.engineCommand (s : State) (legal : Bool) (body : Result) : Result :=
  if s.faulted then .fault .stuck
  else if legal then body
  else .next (s.raise .lifecycle)

/-- A unit-level command: ILLEGAL_COMMAND on a unit of a kind the row does not admit (R340 (c)), before
the lifecycle check (R1625), which asks for READY (R1301). -/
def State.unitCommand (s : State) (kinds : List Kind) (k : UnitId) (body : Result) : Result :=
  if s.faulted then .fault .stuck
  else if admits kinds k then s.engineCommand s.ready body
  else .next (s.raise .illegalCommand)

/-- A command that reaches unit storage: its body where the storage it needs exists (R212), which it does
in every state that a run reaches. -/
def whenStorage (ok : Bool) (body : Result) : Result := if ok then body else .fault .unitState

end Sys2Proof.Machine
end

