-- ==== Sys2Proof/Machine/Arena.lean ====
section
/-! DEFINITION. The arena commands (40_arena.md). -/

namespace Sys2Proof.Machine

/-- A byte count rounded up to whole words: `4 * ceil(b / 4)` (R410, D41). -/
def carveSize (b : Nat) : Nat := 4 * ((b + 3) / 4)

/-- ARENA_RESERVE (R401): the capacity is set, nothing is carved, and every byte is 0, that is, none is
listed. -/
def execArenaReserve (cap : Word) (s : State) : Result :=
  s.engineCommand (!s.reserved)
    (.next { s with arena := ⟨u32op cap, 0, []⟩, reserved := true })

/-- ARENA_CARVE (R410). -/
def execArenaCarve (b : Word) (s : State) : Result :=
  s.engineCommand (s.reserved && !s.ready)
    (if s.arena.off + carveSize (u32op b) > s.arena.cap then .next (s.raise .arenaOverflow)
     else .next (({ s with arena := { s.arena with off := s.arena.off + carveSize (u32op b) } }).respond
      (BitVec.ofNat 32 s.arena.off)))

end Sys2Proof.Machine
end

