-- ==== Sys2Proof/Machine/DelayLine.lean ====
section
/-! DEFINITION. The delay line commands (41_delay_line.md). -/

namespace Sys2Proof.Machine

/-- A process command's end: the response and the next state. -/
def respondWith (r : F32 × State) : Result := .next (r.2.respond r.1)

/-- The cell the read cursor names: `(w - n) mod L` (10_state.md R132). -/
def readCell (u : Delay) : Nat := wrapIndex ((u.w : Int) - (u.n : Int)) u.L

/-- The write cursor moved on by one cell. -/
def Delay.advance (u : Delay) : Delay := { u with w := (u.w + 1) % u.L }

/-- `DLstep(k, x)` (R500): the read comes before the write, and a delay of 0 bypasses the buffer. -/
def dlStep (k : UnitId) (x : F32) (s : State) : F32 × State :=
  (if (s.delay k).n = 0 then x else s.bufRead k (readCell (s.delay k)),
   (s.bufWrite k (s.delay k).w x).setDelay k (s.delay k).advance)

/-- `unit[k].n <- min(m, unit[k].L - 1)` (R510, R620). -/
def State.setLength (s : State) (k : UnitId) (m : Nat) : State :=
  s.setDelay k { s.delay k with n := min m ((s.delay k).L - 1) }

/-- DL_PROCESS (R501). -/
def execDlProcess (k : UnitId) (x : Word) (s : State) : Result :=
  s.unitCommand dlKinds k (whenStorage (s.delayOk k) (respondWith (dlStep k (f32op x) s)))

/-- DL_SET_DELAY (R510). -/
def execDlSetDelay (k : UnitId) (m : Word) (s : State) : Result :=
  s.unitCommand dlKinds k (.next (s.setLength k (u32op m)))

/-- DL_RESET (R520). -/
def execDlReset (k : UnitId) (s : State) : Result :=
  s.unitCommand dlKinds k (whenStorage (s.regionOk k) (.next (s.clearDelay k)))

end Sys2Proof.Machine
end

