-- ==== Sys2Proof/Machine/Lfo.lean ====
section
/-! DEFINITION. The modulation oscillator commands (43_lfo.md). -/

namespace Sys2Proof.Machine

/-- `LFOstep(j)` (R700): the sample is read, then the phase advances. -/
def lfoStep (j : UnitId) (s : State) : F32 × State :=
  ((s.osc j).table.getD (s.osc j).idx f0,
   s.setOsc j { s.osc j with idx := ((s.osc j).idx + 1) % (s.osc j).N })

/-- `unit[j].idx <- 0` (R720, R1320). -/
def State.resetPhase (s : State) (j : UnitId) : State := s.setOsc j { s.osc j with idx := 0 }

/-- `N_j` of R710: the exact quotient FS / rho, rounded half away from zero. -/
def tableLen (c : Cfg) (rho : F32) : Nat :=
  ratRoundHalfAway (magUnits (fmag c.fs)) (magUnits (fmag rho))

/-- The check on `N_j` in R710. -/
def tableLenOk (c : Cfg) (rho : F32) : Bool :=
  decide (1 ≤ tableLen c rho) && decide (tableLen c rho ≤ c.lfoTableMax)

/-- `table_j` of R710: one period of `sinF` in `n` samples. -/
def sineTable (s : State) (n : Nat) : List F32 :=
  (List.range n).map (fun i =>
    fnum Config.sinF (s.nan (3 * i))
      (fdiv (s.nan (3 * i + 1)) (fmul (s.nan (3 * i + 2)) Config.twoPi (f32OfNat i)) (f32OfNat n)))

/-- LFO_STEP (R701). -/
def execLfoStep (k : UnitId) (s : State) : Result :=
  s.unitCommand lfoKinds k (whenStorage (s.oscOk k) (respondWith (lfoStep k s)))

/-- LFO_RESET (R720). -/
def execLfoReset (k : UnitId) (s : State) : Result :=
  s.unitCommand lfoKinds k (.next (s.resetPhase k))

end Sys2Proof.Machine
end

