-- ==== Sys2Proof/Machine/Allpass.lean ====
section
/-! DEFINITION. The allpass commands (42_allpass.md). -/

namespace Sys2Proof.Machine

/-- `roundHalfAway(p)` of the modulation product, or 0 for a product that is not finite (R600). -/
def modOffset (p : F32) : Int := if fIsFinite p then roundHalfAway p else 0

/-- The cell an allpass reads, and the state after its oscillator has stepped (R600): an unmodulated unit
reads at the read cursor; a modulated one reads there plus the offset, wrapped again. -/
def apReadCell (k : UnitId) (s : State) : Nat × State :=
  if unitKind k = .APM then
    (wrapIndex ((readCell (s.delay k) : Int)
        + modOffset (fmul (s.nan 0) (s.modulation k).depth (lfoStep (s.modulation k).lfo s).1))
      (s.delay k).L,
     (lfoStep (s.modulation k).lfo s).2)
  else (readCell (s.delay k), s)

/-- The value `d` an allpass reads (R600). -/
def apRead (k : UnitId) (s : State) : F32 := s.bufRead k (apReadCell k s).1

/-- The feedback input `v` (R600), stored unflushed. -/
def apStored (k : UnitId) (x : F32) (s : State) : F32 :=
  fsub (s.nan 1) x (fmul (s.nan 2) (apRead k s) (s.alpha k))

/-- The output before the flush (R600). -/
def apOutput (k : UnitId) (x : F32) (s : State) : F32 :=
  fadd (s.nan 3) (fmul (s.nan 4) (apStored k x s) (s.alpha k)) (apRead k s)

/-- `APstep(k, x)` (R600). -/
def apStep (k : UnitId) (x : F32) (s : State) : F32 × State :=
  (fflush s.cfg.tDn (apOutput k x s),
   (((apReadCell k s).2.bufWrite k (s.delay k).w (apStored k x s)).setDelay k
      (s.delay k).advance).tick)

/-- The storage an allpass step reaches exists: its buffer and, for a modulated unit, its oscillator's
table. -/
def State.apOk (s : State) (k : UnitId) : Bool :=
  s.delayOk k && (decide (unitKind k ≠ .APM) || s.oscOk (s.modulation k).lfo)

/-- `A(c)` of R1210: a coefficient clamped to [0, ALPHA_MAX]. -/
def alphaClamp (a : F32) : F32 := fclamp a f0 Config.alphaMax

/-- AP_PROCESS (R601). -/
def execApProcess (k : UnitId) (x : Word) (s : State) : Result :=
  s.unitCommand apKinds k (whenStorage (s.apOk k) (respondWith (apStep k (f32op x) s)))

/-- AP_SET_COEF (R610). -/
def execApSetCoef (k : UnitId) (a : Word) (s : State) : Result :=
  s.unitCommand apKinds k (.next (s.setAlpha k (alphaClamp (f32op a))))

/-- AP_SET_DELAY (R620). -/
def execApSetDelay (k : UnitId) (m : Word) (s : State) : Result :=
  s.unitCommand apKinds k (.next (s.setLength k (u32op m)))

/-- AP_SET_DEPTH (R630). -/
def execApSetDepth (k : UnitId) (dp : Word) (s : State) : Result :=
  s.unitCommand apmKinds k
    (.next (s.setModulation k { s.modulation k with depth := fclamp (f32op dp) f0 Config.fltMax }))

/-- AP_RESET (R640). -/
def execApReset (k : UnitId) (s : State) : Result :=
  s.unitCommand apKinds k (whenStorage (s.regionOk k) (.next (s.clearDelay k)))

end Sys2Proof.Machine
end

