-- ==== Sys2Proof/Machine/OnePole.lean ====
section
/-! DEFINITION. The one-pole filter commands (44_one_pole.md). -/

namespace Sys2Proof.Machine

/-- `((1 ⊖ b) ⊗ x) ⊕ (b ⊗ last)`, flushed: the lowpass of R800 and the dezipper of R1000. -/
def smoothed (s : State) (b x last : F32) : F32 :=
  fflush s.cfg.tDn
    (fadd (s.nan 0) (fmul (s.nan 1) (fsub (s.nan 2) f1 b) x) (fmul (s.nan 3) b last))

/-- The midpoint `x ⊕ (b ⊗ s)` of the highpass (R800). -/
def opMid (k : UnitId) (x : F32) (s : State) : F32 :=
  fadd (s.nan 0) x (fmul (s.nan 1) (s.pole k).beta (s.pole k).s)

/-- The highpass output (R800): `(b ⊗ (mid ⊖ s)) ⊘ b`, flushed. -/
def opHigh (k : UnitId) (x : F32) (s : State) : F32 :=
  fflush s.cfg.tDn
    (fdiv (s.nan 2)
      (fmul (s.nan 3) (s.pole k).beta (fsub (s.nan 4) (opMid k x s) (s.pole k).s))
      (s.pole k).beta)

/-- `OPstep(k, x)` (R800): the lowpass keeps its flushed output, the highpass its unflushed midpoint. -/
def opStep (k : UnitId) (x : F32) (s : State) : F32 × State :=
  if unitKind k = .OPL then
    (smoothed s (s.pole k).beta x (s.pole k).s,
     (s.setPole k { s.pole k with s := smoothed s (s.pole k).beta x (s.pole k).s }).tick)
  else
    (opHigh k x s, (s.setPole k { s.pole k with s := opMid k x s }).tick)

/-- `unit[k].s <- +0.0` (R820, R1310, R1320). -/
def State.clearPole (s : State) (k : UnitId) : State := s.setPole k { s.pole k with s := f0 }

/-- OP_PROCESS (R801). -/
def execOpProcess (k : UnitId) (x : Word) (s : State) : Result :=
  s.unitCommand opKinds k (respondWith (opStep k (f32op x) s))

/-- OP_SET_CUTOFF (R810). -/
def execOpSetCutoff (k : UnitId) (wc : Word) (s : State) : Result :=
  s.unitCommand opKinds k
    (.next ((s.setPole k { s.pole k with
      beta := fnum Config.expF (s.nan 0) (fneg (fclamp (f32op wc) f0 Config.wcMax)) }).tick))

/-- OP_RESET (R820). -/
def execOpReset (k : UnitId) (s : State) : Result :=
  s.unitCommand opKinds k (.next (s.clearPole k))

end Sys2Proof.Machine
end

