-- ==== Sys2Proof/Machine/Dezipper.lean ====
section
/-! DEFINITION. The parameter smoother commands (46_dezipper.md). -/

namespace Sys2Proof.Machine

/-- `DZstep(k, x)` (R1000): the memory takes the flushed value. -/
def dzStep (k : UnitId) (x : F32) (s : State) : F32 × State :=
  (smoothed s (s.dezip k).beta x (s.dezip k).last,
   (s.setDezip k { s.dezip k with last := smoothed s (s.dezip k).beta x (s.dezip k).last }).tick)

/-- DZ_SMOOTH (R1001). -/
def execDzSmooth (k : UnitId) (x : Word) (s : State) : Result :=
  s.unitCommand dzKinds k (respondWith (dzStep k (f32op x) s))

/-- DZ_SET_FACTOR (R1010). -/
def execDzSetFactor (k : UnitId) (b : Word) (s : State) : Result :=
  s.unitCommand dzKinds k
    (.next (s.setDezip k { s.dezip k with beta := fclamp (f32op b) f0 Config.alphaMax }))

/-- DZ_PRESET (R1020): unclamped, unflushed. -/
def execDzPreset (k : UnitId) (v : Word) (s : State) : Result :=
  s.unitCommand dzKinds k (.next (s.setDezip k { s.dezip k with last := f32op v }))

end Sys2Proof.Machine
end

