-- ==== Sys2Proof/Machine/Saturator.lean ====
section
/-! DEFINITION. The soft-clipper saturator commands (45_saturator.md). -/

namespace Sys2Proof.Machine

/-- The curve of a saturator kind: its function and the coefficients (a, c) of R900. -/
def satCurve (k : UnitId) : (F32 → F32) × F32 × F32 :=
  if unitKind k = .SATA then (Config.atanF, f0p9, f0p1) else (Config.tanhF, f0p7, f0p3)

/-- The linear drive `g` (R900). -/
def satGain (k : UnitId) (s : State) : F32 :=
  fnum Config.pow10F (s.nan 0) (fdiv (s.nan 1) (s.drive k) f20)

/-- The divisor of R900: `F(g)` below unity drive, `(a ⊕ (c ⊗ g)) ⊗ F(g)` from there on, a NaN drive
included. -/
def satDivisor (F : F32 → F32) (a c g : F32) (s : State) : F32 :=
  if flt g f1 then fnum F (s.nan 2) g
  else fmul (s.nan 3) (fadd (s.nan 4) a (fmul (s.nan 5) c g)) (fnum F (s.nan 2) g)

/-- `SATeval(k, x)` (R900), not flushed. -/
def satEval (k : UnitId) (x : F32) (s : State) : F32 :=
  fdiv (s.nan 6) (fnum (satCurve k).1 (s.nan 7) (fmul (s.nan 8) x (satGain k s)))
    (satDivisor (satCurve k).1 (satCurve k).2.1 (satCurve k).2.2 (satGain k s) s)

/-- A saturator evaluated: no state of the block changes (R900). -/
def satStep (k : UnitId) (x : F32) (s : State) : F32 × State := (satEval k x s, s.tick)

/-- SAT_PROCESS (R901). -/
def execSatProcess (k : UnitId) (x : Word) (s : State) : Result :=
  s.unitCommand satKinds k (respondWith (satStep k (f32op x) s))

/-- SAT_SET_DRIVE (R910): no clamp. -/
def execSatSetDrive (k : UnitId) (dB : Word) (s : State) : Result :=
  s.unitCommand satKinds k (.next (s.setDrive k (f32op dB)))

end Sys2Proof.Machine
end

