-- ==== Sys2Proof/Machine/Control.lean ====
section
/-! DEFINITION. The control parameters and the mapping to coefficients (47_engine_control.md), and the
write-back of the coefficients into the units (48_engine_process.md R1210). -/

namespace Sys2Proof.Machine

/-! ## Commands -/

/-- One register written (R1101). -/
def State.writeParam (s : State) (p : Param) (v : Word) : State :=
  { s with params := setParamValue s.params p v }

/-- SET_PARAM (R1101). -/
def execSetParam (i : Param) (v : Word) (s : State) : Result :=
  s.engineCommand true (.next (s.writeParam i v))

/-- READ_PARAM (R1120). -/
def execReadParam (i : Param) (s : State) : Result :=
  s.engineCommand true (.next (s.respond (paramWord s.params i)))

/-- A list in an order drawn from `d`: each next entry is the one at place `d m` modulo the `m` entries
still unplaced. Every order is drawn by some `d`. -/
def drawOrder {α : Type} (d : Nat → Nat) : Nat → List α → List α
  | 0, _ => []
  | m + 1, l =>
    match l[d (m + 1) % l.length]? with
    | some x => x :: drawOrder d m (l.eraseIdx (d (m + 1) % l.length))
    | none => []

/-- One atomic step of a SET_CONTROL (R1110): the first of the writes left is performed, the others stay
with the issuing agent. -/
def State.controlStep (s : State) : List (Param × Word) → State
  | [] => s
  | (p, v) :: rest => (s.writeParam p v).setAgent s.cur { s.agent s.cur with pending := rest }

/-- SET_CONTROL's ten writes in operand order (R330, R1110). -/
def controlWrites (a b c d e f g h i j : Word) : List (Param × Word) :=
  [(.predelayMs, a), (.inputLowpassHz, b), (.inputHighpassHz, c), (.diffusion, d), (.decay, e),
   (.driveDB, f), (.hfDampingHz, g), (.lfDampingHz, h), (.mixPercent, i), (.smoothed, j)]

/-- SET_CONTROL (R1110): the order of the ten writes is drawn and the first is performed. The other nine
are steps of their own, taken by `step`. -/
def execSetControl (predelayMs inputLowpassHz inputHighpassHz diffusion decay driveDB hfDampingHz
    lfDampingHz mixPercent smoothed : Word) (s : State) : Result :=
  s.engineCommand true
    (.next (s.controlStep (drawOrder (Config.orderDraw s.draws) 10
      (controlWrites predelayMs inputLowpassHz inputHighpassHz diffusion decay driveDB hfDampingHz
        lfDampingHz mixPercent smoothed))).tick)

/-! ## Targets -/

/-- The ten targets T0 to T9 (R1130), or the ten coefficients C0 to C9 of a sample (R1207). -/
structure Coefs where
  alpha1 : F32
  alpha2 : F32
  alphaT : F32
  decay : F32
  mix : F32
  betaILP : F32
  betaIHP : F32
  betaHF : F32
  betaLF : F32
  drive : F32
  deriving DecidableEq, Repr

/-- `ωc(f)` (R1131). -/
def omegaC (s : State) (site : Nat) (f : F32) : F32 :=
  fmin (fdiv (s.nan site) (fmul (s.nan (site + 1)) Config.twoPi f) s.cfg.fs) Config.wcMax

/-- `expF(-ωc(f))` (R1130, T5 to T8). -/
def poleTarget (s : State) (site : Nat) (f : F32) : F32 :=
  fnum Config.expF (s.nan (site + 2)) (fneg (omegaC s site f))

/-- decE, the engine's decay (R1133). -/
def decayTarget (s : State) : F32 := fmin s.params.decay s.cfg.decayMax

/-- T1 (R1130): `0.625 ⊕ ((d ⊖ 0.5) ⊘ 6)`. -/
def alpha2Target (s : State) : F32 :=
  fadd (s.nan 0) f0p625 (fdiv (s.nan 1) (fsub (s.nan 2) s.params.diffusion f0p5) f6)

/-- The targets of the state's parameter registers (R1130). -/
def targets (s : State) : Coefs where
  alpha1 := fmin s.params.diffusion Config.alphaMax
  alpha2 := alpha2Target s
  alphaT := fclamp (fadd (s.nan 3) (decayTarget s) f0p15) f0p15 f0p5
  decay := decayTarget s
  mix := fdiv (s.nan 4) s.params.mixPercent f100
  betaILP := poleTarget s 5 s.params.inputLowpassHz
  betaIHP := poleTarget s 8 s.params.inputHighpassHz
  betaHF := poleTarget s 11 s.params.hfDampingHz
  betaLF := poleTarget s 14 s.params.lfDampingHz
  drive := s.params.driveDB

/-- The quotient of R1140: `(param[0] ⊗ FS) ⊘ 1000`. -/
def predelayQuotient (s : State) : F32 :=
  fdiv (s.nan 17) (fmul (s.nan 18) s.params.predelayMs s.cfg.fs) f1000

/-- nPD (R1140). A quotient that is NaN or negative, which no stored parameter value gives, has no floor
among the naturals in the rule: the length is then a free value (log 16). -/
def predelayLen (s : State) : Nat :=
  if fIsNaN (predelayQuotient s) || flt (predelayQuotient s) f0 then
    min (Config.lengthDraw s.draws) (s.cfg.maxLenOf .PD - 1)
  else if fIsInf (predelayQuotient s) then s.cfg.maxLenOf .PD - 1
  else min (ffloor (predelayQuotient s)) (s.cfg.maxLenOf .PD - 1)

/-! ## Write-back -/

/-- `unit[k].beta` of a one-pole filter written (R1210). -/
def State.setBeta (s : State) (k : UnitId) (b : F32) : State :=
  s.setPole k { s.pole k with beta := b }

/-- `unit[k].depth` written (R1210). -/
def State.setDepth (s : State) (k : UnitId) (d : F32) : State :=
  s.setModulation k { s.modulation k with depth := d }

/-- The alphas of the four extra allpasses written (R1210, R1310). -/
def State.writeExtraAlphas (s : State) (c2 : F32) : State :=
  (((s.setAlpha .XAP1_A (alphaClamp c2)).setAlpha .XAP2_A (alphaClamp c2)).setAlpha .XAP1_B
    (alphaClamp c2)).setAlpha .XAP2_B (alphaClamp c2)

/-- The alphas of R1210 that are written in both modes. -/
def State.writeAlphas (s : State) (c : Coefs) : State :=
  (((((((s.setAlpha .AP1 (alphaClamp c.alpha1)).setAlpha .AP2 (alphaClamp c.alpha1)).setAlpha .AP3
    (alphaClamp c.alpha2)).setAlpha .AP4 (alphaClamp c.alpha2)).setAlpha .MAP_A
    s.cfg.alphaMod).setAlpha .MAP_B s.cfg.alphaMod).setAlpha .TAP_A (alphaClamp c.alphaT)).setAlpha
    .TAP_B (alphaClamp c.alphaT)

/-- The betas of R1210. -/
def State.writeBetas (s : State) (c : Coefs) : State :=
  (((((s.setBeta .ILP c.betaILP).setBeta .IHP c.betaIHP).setBeta .DLP_A c.betaHF).setBeta .DLP_B
    c.betaHF).setBeta .DHP_A c.betaLF).setBeta .DHP_B c.betaLF

/-- The depths of R1210: DEPTH_A and DEPTH_B in smoothed mode, 0 otherwise. -/
def State.writeDepths (s : State) (sm : Bool) : State :=
  (s.setDepth .MAP_A (if sm then s.cfg.depthA else f0)).setDepth .MAP_B
    (if sm then s.cfg.depthB else f0)

/-- The coefficient write-back (R1210), in mode `sm` and with predelay `nPD`. -/
def State.writeBack (s : State) (sm : Bool) (c : Coefs) (nPD : Nat) : State :=
  let s1 := s.setDelay .PD { s.delay .PD with n := nPD }
  let s2 := ((s1.writeBetas c).writeAlphas c).writeDepths sm
  let s3 := (s2.setDrive .SAT_A c.drive).setDrive .SAT_B c.drive
  if sm then s3.writeExtraAlphas c.alphaT else s3

end Sys2Proof.Machine
end

