-- ==== Sys2Proof/Machine/Lifecycle.lean ====
section
/-! DEFINITION. The lifecycle commands (49_lifecycle.md). -/

namespace Sys2Proof.Machine

/-- A change made to the L, base, n and w of each unit of a list. -/
def State.forDelays (s : State) (ks : List UnitId) (f : UnitId → Delay → Delay) : State :=
  ks.foldl (fun t k => t.setDelay k (f k (t.delay k))) s

/-- The arena with every buffer of a list of units zeroed. -/
def State.clearBuffers (s : State) (ks : List UnitId) : State :=
  s.setMem (ks.foldl (fun m k => memClear m (s.delay k).base (4 * (s.delay k).L)) s.arena.mem)

/-- Every dezipper preset to its target, with the configured factor (R1310, R1320). -/
def State.presetDezips (s : State) (t : Coefs) : State :=
  [(UnitId.DZ_A1, t.alpha1), (.DZ_A2, t.alpha2), (.DZ_AT, t.alphaT), (.DZ_DEC, t.decay),
   (.DZ_MIX, t.mix), (.DZ_BILP, t.betaILP), (.DZ_BIHP, t.betaIHP), (.DZ_BHF, t.betaHF),
   (.DZ_BLF, t.betaLF), (.DZ_DRV, t.drive)].foldl
    (fun u e => u.setDezip e.1 ⟨u.cfg.dezipBeta, e.2⟩) s

/-- Both accumulators +0.0 (R140). -/
def State.clearFeedback (s : State) : State := { s with xfbA := f0, xfbB := f0 }

/-- The signal state cleared and the dezippers preset: the steps ENGINE_INIT and ENGINE_RESET share
(R1310, R1320). -/
def State.clearSignal (s : State) (t : Coefs) : State :=
  let s1 := (s.clearBuffers delayUnits).forDelays delayUnits (fun _ u => { u with w := 0 })
  let s2 := opUnits.foldl State.clearPole ((s1.resetPhase .LFO_A).resetPhase .LFO_B)
  (s2.presetDezips t).clearFeedback

/-- ENGINE_CREATE (R1305). -/
def State.create (s : State) : State :=
  let s1 := s.forDelays delayUnits (fun k u => { u with L := s.cfg.maxLenOf k })
  let s2 := s1.setModulation .MAP_A { s1.modulation .MAP_A with lfo := .LFO_A }
  let s3 := s2.setModulation .MAP_B { s2.modulation .MAP_B with lfo := .LFO_B }
  { s3 with created := true }

def execEngineCreate (s : State) : Result :=
  s.engineCommand (s.reserved && !s.created) (.next s.create)

/-- `nk[k]` of R1310 step 1: `R_k · FS / FS_REF`, exact, rounded half away from zero. -/
def scaledLen (c : Cfg) (k : UnitId) : Nat :=
  ratRoundHalfAway (c.refLenOf k * magUnits (fmag c.fs)) (magUnits (fmag c.fsRef))

/-- The check of R1310 step 1: `nk[k] ≤ MAXLEN_k - 1` for every fixed delay unit. -/
def lengthsFit (c : Cfg) : Bool :=
  fixedDelayUnits.all (fun k => decide (scaledLen c k + 1 ≤ c.maxLenOf k))

/-- The check of R1310 step 2. -/
def tablesFit (c : Cfg) : Bool := tableLenOk c c.lfoRateA && tableLenOk c c.lfoRateB

/-- R1310 step 3: the buffers carved in order. The answer is whether all fitted; the carves before the one
that did not stay made. -/
def State.carve (s : State) : List UnitId → Bool × State
  | [] => (true, s)
  | k :: ks =>
    if s.arena.off + 4 * s.cfg.maxLenOf k > s.arena.cap then (false, s)
    else
      State.carve
        (({ s with arena := { s.arena with off := s.arena.off + 4 * s.cfg.maxLenOf k } }).setDelay k
          { s.delay k with base := s.arena.off }) ks

/-- The delay lengths of R1310 step 4. -/
def State.setLengths (s : State) : State :=
  (s.forDelays fixedDelayUnits (fun k u => { u with n := scaledLen s.cfg k })).setDelay .PD
    { s.delay .PD with n := predelayLen s }

/-- The oscillator tables of R1310 step 4 (43_lfo.md R710). -/
def State.setTables (s : State) : State :=
  let nA := tableLen s.cfg s.cfg.lfoRateA
  let nB := tableLen s.cfg s.cfg.lfoRateB
  ((s.setOsc .LFO_A ⟨nA, sineTable s.tick nA, 0⟩).setOsc .LFO_B
    ⟨nB, sineTable s.tick.tick nB, 0⟩)

/-- R1310 step 4: every unit set up and READY set. -/
def State.setUp (s : State) : State :=
  let t := targets s
  let s1 := (s.setLengths.setTables).clearSignal t
  let s2 := (s1.writeBack s.params.smoothed t (predelayLen s)).writeExtraAlphas t.alphaT
  { s2 with ready := true, draws := s.draws + 3 }

/-- ENGINE_INIT (R1310): the checks in the order of its steps. -/
def execEngineInit (s : State) : Result :=
  s.engineCommand (s.created && !s.ready)
    (if lengthsFit s.cfg then
      if tablesFit s.cfg then
        match s.carve delayUnits with
        | (true, s') => whenStorage (delayUnits.all s'.regionOk) (.next s'.setUp)
        | (false, s') => .next (s'.raise .arenaOverflow)
      else .next (s.raise .lfoConfig)
    else .next (s.raise .delayCapacity))

/-- ENGINE_RESET (R1320). -/
def execEngineReset (s : State) : Result :=
  s.engineCommand s.ready
    (whenStorage (delayUnits.all s.regionOk) (.next (s.clearSignal (targets s)).tick))

/-- READ_STATUS (R1330), legal in every state. -/
def execReadStatus (s : State) : Result := .next (s.respond s.statusWord)

end Sys2Proof.Machine
end

