-- ==== Sys2Proof/Machine/Engine.lean ====
section
/-! DEFINITION. The engine sample and the processing commands (48_engine_process.md). -/

namespace Sys2Proof.Machine

/-! ## Coefficients (R1207) -/

/-- Each dezipper stepped once, in order, on its target. -/
def smoothTargets (t : Coefs) (s : State) : Coefs × State :=
  let r0 := dzStep .DZ_A1 t.alpha1 s
  let r1 := dzStep .DZ_A2 t.alpha2 r0.2
  let r2 := dzStep .DZ_AT t.alphaT r1.2
  let r3 := dzStep .DZ_DEC t.decay r2.2
  let r4 := dzStep .DZ_MIX t.mix r3.2
  let r5 := dzStep .DZ_BILP t.betaILP r4.2
  let r6 := dzStep .DZ_BIHP t.betaIHP r5.2
  let r7 := dzStep .DZ_BHF t.betaHF r6.2
  let r8 := dzStep .DZ_BLF t.betaLF r7.2
  let r9 := dzStep .DZ_DRV t.drive r8.2
  (⟨r0.1, r1.1, r2.1, r3.1, r4.1, r5.1, r6.1, r7.1, r8.1, r9.1⟩, r9.2)

/-- The coefficients of this sample: the targets, or the dezippered targets (R1207). -/
def coefficients (s : State) : Coefs × State :=
  if s.cfg.dezipEnabled then smoothTargets (targets s) s.tick else (targets s, s.tick)

/-! ## The signal path (R1220, R1225) -/

/-- The units of one branch, `q` to `q + 8` of R1220. -/
structure Branch where
  map : UnitId
  dl1 : UnitId
  sat : UnitId
  dlp : UnitId
  dhp : UnitId
  tap : UnitId
  dl2 : UnitId
  xap1 : UnitId
  xap2 : UnitId

def branchA : Branch :=
  ⟨.MAP_A, .DL1_A, .SAT_A, .DLP_A, .DHP_A, .TAP_A, .DL2_A, .XAP1_A, .XAP2_A⟩

def branchB : Branch :=
  ⟨.MAP_B, .DL1_B, .SAT_B, .DLP_B, .DHP_B, .TAP_B, .DL2_B, .XAP1_B, .XAP2_B⟩

/-- What a branch yields in one sample: its taps t1, t2, t3, the taps t4 and t5 that exist in smoothed mode
only, and the next value of its accumulator (R1220, R1225). -/
structure BranchOut where
  t1 : F32
  t2 : F32
  t3 : F32
  extra : Option (F32 × F32)
  next : F32
  deriving DecidableEq, Repr

/-- The input path, PD to AP4 (R1220). -/
def inputPath (x : F32) (s : State) : F32 × State :=
  let r1 := dlStep .PD x s
  let r2 := opStep .ILP r1.1 r1.2
  let r3 := opStep .IHP r2.1 r2.2
  let r4 := apStep .AP1 r3.1 r3.2
  let r5 := apStep .AP2 r4.1 r4.2
  let r6 := apStep .AP3 r5.1 r5.2
  apStep .AP4 r6.1 r6.2

/-- A product of the engine's own, `a ⊗ b`, with a draw of its own. -/
def engineMul (a b : F32) (s : State) : F32 × State := (fmul (s.nan 0) a b, s.tick)

/-- A sum of the engine's own, `a ⊕ b`, with a draw of its own. -/
def engineAdd (a b : F32) (s : State) : F32 × State := (fadd (s.nan 0) a b, s.tick)

/-- `MODE(b, q, t3)` (R1225): the tail, the extra taps and the state after the stages. -/
def modeSwitch (b : Branch) (sm : Bool) (t3 : F32) (s : State) :
    F32 × Option (F32 × F32) × State :=
  if sm then
    let r4 := apStep b.xap1 t3 s
    let r5 := apStep b.xap2 r4.1 r4.2
    (r5.1, some (r4.1, r5.1), r5.2)
  else (t3, none, s)

/-- One branch of the tank (R1220), on the diffuser output `u` and the other branch's feedback `f`. -/
def branchPath (b : Branch) (sm : Bool) (c3 u f : F32) (s : State) : BranchOut × State :=
  let a0 := engineAdd u f s
  let a1 := apStep b.map a0.1 a0.2
  let t1 := dlStep b.dl1 a1.1 a1.2
  let a2 := satStep b.sat t1.1 t1.2
  let a3 := opStep b.dlp a2.1 a2.2
  let a4 := opStep b.dhp a3.1 a3.2
  let t2 := apStep b.tap a4.1 a4.2
  let a5 := engineMul t2.1 c3 t2.2
  let t3 := dlStep b.dl2 a5.1 a5.2
  let tail := modeSwitch b sm t3.1 t3.2
  let nx := engineMul tail.1 c3 tail.2.2
  (⟨t1.1, t2.1, t3.1, tail.2.1, nx.1⟩, nx.2)

/-! ## The wet taps (R1240) -/

/-- The value of a tap that both modes have. -/
def offTapValue (a b : BranchOut) : OffTap → F32
  | .t1_A => a.t1 | .t2_A => a.t2 | .t3_A => a.t3
  | .t1_B => b.t1 | .t2_B => b.t2 | .t3_B => b.t3

/-- The value of a tap of smoothed mode, `xa` and `xb` being the branches' (t4, t5). -/
def onTapValue (a b : BranchOut) (xa xb : F32 × F32) : OnTap → F32
  | .off t => offTapValue a b t
  | .t4_A => xa.1 | .t5_A => xa.2 | .t4_B => xb.1 | .t5_B => xb.2

/-- The signed sum of R1240 from term `j` on: an odd term is subtracted, an even one added. -/
def signedSum (q : Nat → F32) : Nat → F32 → List F32 → F32
  | _, acc, [] => acc
  | j, acc, v :: vs =>
    signedSum q (j + 1) (if j % 2 = 1 then fsub (q j) acc v else fadd (q j) acc v) vs

/-- `W ⊗ s` for one channel's terms (R1240): the first term as it is, then alternating signs. -/
def wetSum (q : Nat → F32) (weight : F32) : List F32 → F32
  | [] => f0
  | v :: vs => fmul (q 0) weight (signedSum q 1 v vs)

/-- The two wet channels (R1240): three terms at 0.7, or in smoothed mode five at 0.6. -/
def wetOut (a b : BranchOut) (s : State) : F32 × F32 :=
  match a.extra, b.extra with
  | some xa, some xb =>
    (wetSum s.nan f0p6 (s.cfg.wetTaps.onL.toList.map (onTapValue a b xa xb)),
     wetSum s.tick.nan f0p6 (s.cfg.wetTaps.onR.toList.map (onTapValue a b xa xb)))
  | _, _ =>
    (wetSum s.nan f0p7 (s.cfg.wetTaps.offL.toList.map (offTapValue a b)),
     wetSum s.tick.nan f0p7 (s.cfg.wetTaps.offR.toList.map (offTapValue a b)))

/-! ## The engine sample -/

/-- What an engine sample returns: the two wet channels, and C4, the mix as applied in it (R1201, R1250). -/
structure SampleOut where
  wetL : F32
  wetR : F32
  mix : F32
  deriving DecidableEq, Repr

/-- Both accumulators written, after both branches (R1230). -/
def State.setFeedback (s : State) (a b : F32) : State := { s with xfbA := a, xfbB := b }

/-- The tank: both branches on the accumulators of the previous sample, then the accumulators (R1220,
R1230). -/
def tank (sm : Bool) (c3 u : F32) (s : State) : BranchOut × BranchOut × State :=
  let a := branchPath branchA sm c3 u s.xfbB s
  let b := branchPath branchB sm c3 u s.xfbA a.2
  (a.1, b.1, b.2.setFeedback a.1.next b.1.next)

/-- `ENGsample(xin)` (R1201): snapshot and coefficients (R1205, R1207), write-back (R1210), signal path
(R1220, R1225), accumulators (R1230), wet taps (R1240). -/
def engSample (x : F32) (s : State) : SampleOut × State :=
  let c := coefficients s
  let s1 := c.2.writeBack s.params.smoothed c.1 (predelayLen s)
  let u := inputPath x s1
  let t := tank s.params.smoothed c.1.decay u.1 u.2
  let w := wetOut t.1 t.2.1 t.2.2
  (⟨w.1, w.2, c.1.mix⟩, t.2.2.tick.tick)

/-- The storage an engine sample reaches exists: every buffer, and the tables of the two linked
oscillators. -/
def State.engineOk (s : State) : Bool := delayUnits.all s.delayOk && s.apOk .MAP_A && s.apOk .MAP_B

/-- The dry/wet blend `(x ⊗ (1 ⊖ m)) ⊕ (w ⊗ m)` (R1250, R1260). -/
def blend (q : Nat → F32) (x w m : F32) : F32 :=
  fadd (q 0) (fmul (q 1) x (fsub (q 2) f1 m)) (fmul (q 3) w m)

/-- The half-sum `(xL ⊕ xR) ⊗ 0.5` (R1260). -/
def halfSum (q : Nat → F32) (xL xR : F32) : F32 := fmul (q 0) (fadd (q 1) xL xR) f0p5

/-- PROCESS_MONO (R1250): blended with wetL; wetR is discarded. -/
def processMono (x : F32) (s : State) : State :=
  let r := engSample x s
  r.2.tick.respond (blend r.2.nan x r.1.wetL r.1.mix)

def execProcessMono (x : Word) (s : State) : Result :=
  s.engineCommand s.ready (whenStorage s.engineOk (.next (processMono (f32op x) s)))

/-- PROCESS_STEREO (R1260). -/
def processStereo (xL xR : F32) (s : State) : State :=
  let r := engSample (halfSum s.nan xL xR) s.tick
  (r.2.tick.tick.respond (blend r.2.nan xL r.1.wetL r.1.mix)).respond
    (blend r.2.tick.nan xR r.1.wetR r.1.mix)

def execProcessStereo (xL xR : Word) (s : State) : Result :=
  s.engineCommand s.ready (whenStorage s.engineOk (.next (processStereo (f32op xL) (f32op xR) s)))

end Sys2Proof.Machine
end

