-- ==== Sys2Proof/Machine/Dispatch.lean ====
section
/-! DEFINITION. The meaning of each instruction, one arm per constructor. -/

namespace Sys2Proof.Machine

def exec (i : Instr) (s : State) : Host.Outcome State Fault Refusal :=
  match i with
  | .arenaReserve cap => Sys2Proof.Machine.execArenaReserve cap s
  | .arenaCarve b => Sys2Proof.Machine.execArenaCarve b s
  | .engineCreate => Sys2Proof.Machine.execEngineCreate s
  | .engineInit => Sys2Proof.Machine.execEngineInit s
  | .engineReset => Sys2Proof.Machine.execEngineReset s
  | .readStatus => Sys2Proof.Machine.execReadStatus s
  | .setParam i' v => Sys2Proof.Machine.execSetParam i' v s
  | .setControl a b c d e f g h i' j => Sys2Proof.Machine.execSetControl a b c d e f g h i' j s
  | .readParam i' => Sys2Proof.Machine.execReadParam i' s
  | .processMono x => Sys2Proof.Machine.execProcessMono x s
  | .processStereo xL xR => Sys2Proof.Machine.execProcessStereo xL xR s
  | .dlProcess k x => Sys2Proof.Machine.execDlProcess k x s
  | .dlSetDelay k m => Sys2Proof.Machine.execDlSetDelay k m s
  | .dlReset k => Sys2Proof.Machine.execDlReset k s
  | .apProcess k x => Sys2Proof.Machine.execApProcess k x s
  | .apSetCoef k a => Sys2Proof.Machine.execApSetCoef k a s
  | .apSetDelay k m => Sys2Proof.Machine.execApSetDelay k m s
  | .apSetDepth k dp => Sys2Proof.Machine.execApSetDepth k dp s
  | .apReset k => Sys2Proof.Machine.execApReset k s
  | .lfoStep k => Sys2Proof.Machine.execLfoStep k s
  | .lfoReset k => Sys2Proof.Machine.execLfoReset k s
  | .opProcess k x => Sys2Proof.Machine.execOpProcess k x s
  | .opSetCutoff k wc => Sys2Proof.Machine.execOpSetCutoff k wc s
  | .opReset k => Sys2Proof.Machine.execOpReset k s
  | .satProcess k x => Sys2Proof.Machine.execSatProcess k x s
  | .satSetDrive k dB => Sys2Proof.Machine.execSatSetDrive k dB s
  | .dzSmooth k x => Sys2Proof.Machine.execDzSmooth k x s
  | .dzSetFactor k b => Sys2Proof.Machine.execDzSetFactor k b s
  | .dzPreset k v => Sys2Proof.Machine.execDzPreset k v s

end Sys2Proof.Machine
end

