-- ==== Sys2Proof/WellFormed.lean ====
section
/-! DEFINITION. Which instructions are well-formed: a unit-level command names a unit of a kind its row
admits (30_encoding.md R310, R340 (c)). Every other field of an instruction is legal by its type. -/

namespace Sys2Proof

open Machine

/-- The UNIT column of R310 as a check on instructions. -/
def wellFormed : Instr → Bool
  | .arenaReserve _ => true
  | .arenaCarve _ => true
  | .engineCreate => true
  | .engineInit => true
  | .engineReset => true
  | .readStatus => true
  | .setParam _ _ => true
  | .setControl _ _ _ _ _ _ _ _ _ _ => true
  | .readParam _ => true
  | .processMono _ => true
  | .processStereo _ _ => true
  | .dlProcess k _ => admits dlKinds k
  | .dlSetDelay k _ => admits dlKinds k
  | .dlReset k => admits dlKinds k
  | .apProcess k _ => admits apKinds k
  | .apSetCoef k _ => admits apKinds k
  | .apSetDelay k _ => admits apKinds k
  | .apSetDepth k _ => admits apmKinds k
  | .apReset k => admits apKinds k
  | .lfoStep k => admits lfoKinds k
  | .lfoReset k => admits lfoKinds k
  | .opProcess k _ => admits opKinds k
  | .opSetCutoff k _ => admits opKinds k
  | .opReset k => admits opKinds k
  | .satProcess k _ => admits satKinds k
  | .satSetDrive k _ => admits satKinds k
  | .dzSmooth k _ => admits dzKinds k
  | .dzSetFactor k _ => admits dzKinds k
  | .dzPreset k _ => admits dzKinds k

end Sys2Proof
end

