-- ==== Sys2Proof/Decode.lean ====
section
/-! DEFINITION. Decoding the words of a command (30_encoding.md R301 to R304, R310, R340), total and
rejecting by name, and the encoder beside it. -/

namespace Sys2Proof

open Machine

/-- Why a decoder takes no instruction from a list of words. The first five are the illegal encodings of
R340; with the last two there is no whole command to take yet. -/
inductive Reject where
  /-- R340 (a): OPC is in no row. -/
  | unknownOpcode
  /-- R340 (b): the row requires UNIT = 0. -/
  | unitNotZero
  /-- R340 (c): UNIT is 0, above 37, or of a kind the row does not list. -/
  | badUnit
  /-- R340 (d): the row requires IMM16 = 0. -/
  | immNotZero
  /-- R340 (e): the parameter index is 10 or more. -/
  | badParam
  /-- There is no command word. -/
  | empty
  /-- The command word is legal and fewer than its K operand words follow. -/
  | incomplete
  deriving DecidableEq, Repr

/-- What a decoder answers: the instruction and the words after it, or a rejection. -/
inductive Decoded where
  | ok (i : Instr) (rest : List Word)
  | reject (r : Reject)
  deriving DecidableEq, Repr

/-- The OPC field, bits 31:24 (R301). -/
def opcField (w : Word) : BitVec 8 := w.extractLsb' 24 8

/-- The UNIT field, bits 23:16 (R301). -/
def unitField (w : Word) : BitVec 8 := w.extractLsb' 16 8

/-- The IMM16 field, bits 15:0 (R301). -/
def immField (w : Word) : BitVec 16 := w.extractLsb' 0 16

/-- K = 0 (R302). -/
def operands0 (i : Instr) (rest : List Word) : Decoded := .ok i rest

/-- K = 1 (R302). -/
def operands1 (f : Word → Instr) : List Word → Decoded
  | a :: rest => .ok (f a) rest
  | [] => .reject .incomplete

/-- K = 2 (R302). -/
def operands2 (f : Word → Word → Instr) : List Word → Decoded
  | a :: b :: rest => .ok (f a b) rest
  | _ => .reject .incomplete

/-- K = 10: the operands of SET_CONTROL (R302, R1110). -/
def operands10 : List Word → Decoded
  | a :: b :: c :: d :: e :: f :: g :: h :: i :: j :: rest =>
    .ok (.setControl a b c d e f g h i j) rest
  | _ => .reject .incomplete

/-- A row that requires UNIT = 0 and IMM16 = 0 (R340 (b), (d)). -/
def engineRow (w : Word) (next : Decoded) : Decoded :=
  if unitField w ≠ 0 then .reject .unitNotZero
  else if immField w ≠ 0 then .reject .immNotZero
  else next

/-- A row with a parameter index in IMM16 (R340 (b), (e)). -/
def paramRow (w : Word) (next : Param → Decoded) : Decoded :=
  if unitField w ≠ 0 then .reject .unitNotZero
  else match paramOfIndex (immField w) with
    | some p => next p
    | none => .reject .badParam

/-- A unit-level row (R340 (c), (d)). -/
def unitRow (w : Word) (kinds : List Kind) (next : UnitId → Decoded) : Decoded :=
  match unitOfNumber (unitField w) with
  | none => .reject .badUnit
  | some k =>
    if admits kinds k then
      if immField w ≠ 0 then .reject .immNotZero else next k
    else .reject .badUnit

/-- The row of R310 that a command word selects, applied to the words after it. -/
def decodeRow (w : Word) (rest : List Word) : Decoded :=
  match (opcField w).toNat with
  | 0x01 => engineRow w (operands1 .arenaReserve rest)
  | 0x02 => engineRow w (operands1 .arenaCarve rest)
  | 0x03 => engineRow w (operands0 .engineCreate rest)
  | 0x04 => engineRow w (operands0 .engineInit rest)
  | 0x05 => engineRow w (operands0 .engineReset rest)
  | 0x06 => engineRow w (operands0 .readStatus rest)
  | 0x10 => paramRow w (fun p => operands1 (.setParam p) rest)
  | 0x11 => engineRow w (operands10 rest)
  | 0x12 => paramRow w (fun p => operands0 (.readParam p) rest)
  | 0x20 => engineRow w (operands1 .processMono rest)
  | 0x21 => engineRow w (operands2 .processStereo rest)
  | 0x30 => unitRow w dlKinds (fun k => operands1 (.dlProcess k) rest)
  | 0x31 => unitRow w dlKinds (fun k => operands1 (.dlSetDelay k) rest)
  | 0x32 => unitRow w dlKinds (fun k => operands0 (.dlReset k) rest)
  | 0x40 => unitRow w apKinds (fun k => operands1 (.apProcess k) rest)
  | 0x41 => unitRow w apKinds (fun k => operands1 (.apSetCoef k) rest)
  | 0x42 => unitRow w apKinds (fun k => operands1 (.apSetDelay k) rest)
  | 0x43 => unitRow w apmKinds (fun k => operands1 (.apSetDepth k) rest)
  | 0x44 => unitRow w apKinds (fun k => operands0 (.apReset k) rest)
  | 0x50 => unitRow w lfoKinds (fun k => operands0 (.lfoStep k) rest)
  | 0x51 => unitRow w lfoKinds (fun k => operands0 (.lfoReset k) rest)
  | 0x60 => unitRow w opKinds (fun k => operands1 (.opProcess k) rest)
  | 0x61 => unitRow w opKinds (fun k => operands1 (.opSetCutoff k) rest)
  | 0x62 => unitRow w opKinds (fun k => operands0 (.opReset k) rest)
  | 0x70 => unitRow w satKinds (fun k => operands1 (.satProcess k) rest)
  | 0x71 => unitRow w satKinds (fun k => operands1 (.satSetDrive k) rest)
  | 0x80 => unitRow w dzKinds (fun k => operands1 (.dzSmooth k) rest)
  | 0x81 => unitRow w dzKinds (fun k => operands1 (.dzSetFactor k) rest)
  | 0x82 => unitRow w dzKinds (fun k => operands1 (.dzPreset k) rest)
  | _ => .reject .unknownOpcode

/-- The command at the head of a list of words. Legality is known from the command word alone, before
any operand word is looked at (R304, R1610). -/
def decode : List Word → Decoded
  | [] => .reject .empty
  | w :: rest => decodeRow w rest

/-- A command word from its three fields (R301). -/
def commandWord (opc unit : BitVec 8) (imm : BitVec 16) : Word := (opc ++ unit) ++ imm

/-- The word of a unit-level command (R311). -/
def unitWord (opc : BitVec 8) (k : UnitId) : Word := commandWord opc (unitNumber k) 0

/-- The words of an instruction, command word first (R302, R310, R311). -/
def encode : Instr → List Word
  | .arenaReserve cap => [commandWord 0x01 0 0, cap]
  | .arenaCarve b => [commandWord 0x02 0 0, b]
  | .engineCreate => [commandWord 0x03 0 0]
  | .engineInit => [commandWord 0x04 0 0]
  | .engineReset => [commandWord 0x05 0 0]
  | .readStatus => [commandWord 0x06 0 0]
  | .setParam p v => [commandWord 0x10 0 (paramIndex p), v]
  | .setControl a b c d e f g h i j => [commandWord 0x11 0 0, a, b, c, d, e, f, g, h, i, j]
  | .readParam p => [commandWord 0x12 0 (paramIndex p)]
  | .processMono x => [commandWord 0x20 0 0, x]
  | .processStereo xL xR => [commandWord 0x21 0 0, xL, xR]
  | .dlProcess k x => [unitWord 0x30 k, x]
  | .dlSetDelay k m => [unitWord 0x31 k, m]
  | .dlReset k => [unitWord 0x32 k]
  | .apProcess k x => [unitWord 0x40 k, x]
  | .apSetCoef k a => [unitWord 0x41 k, a]
  | .apSetDelay k m => [unitWord 0x42 k, m]
  | .apSetDepth k dp => [unitWord 0x43 k, dp]
  | .apReset k => [unitWord 0x44 k]
  | .lfoStep k => [unitWord 0x50 k]
  | .lfoReset k => [unitWord 0x51 k]
  | .opProcess k x => [unitWord 0x60 k, x]
  | .opSetCutoff k wc => [unitWord 0x61 k, wc]
  | .opReset k => [unitWord 0x62 k]
  | .satProcess k x => [unitWord 0x70 k, x]
  | .satSetDrive k dB => [unitWord 0x71 k, dB]
  | .dzSmooth k x => [unitWord 0x80 k, x]
  | .dzSetFactor k b => [unitWord 0x81 k, b]
  | .dzPreset k v => [unitWord 0x82 k, v]

/-- An instruction given as a number in the opcode table's numbering (bit 0 is the least significant bit
of the first word), as the words of the longest command: the low `nbits` bits are `w`'s and every bit
above them is 0. The longest command is SET_CONTROL, 1 + 10 words (R302, R310). -/
def tableWords (nbits w : Nat) : List Word :=
  (List.range 11).map (fun j => BitVec.ofNat 32 ((w % 2 ^ nbits) / 2 ^ (32 * j)))

/-- The instruction the decoder reads from an opcode-table word; none where it refuses. -/
def decodeTableWord (nbits w : Nat) : Option Instr :=
  match decode (tableWords nbits w) with
  | .ok i _ => some i
  | .reject _ => none

end Sys2Proof
end

