-- ==== Sys2Proof/Machine/Port.lean ====
section
/-! DEFINITION. Taking work from the agents' queues (30_encoding.md R300, R302, R304; 60_exceptions.md
R1610, R1615, R1620). -/

namespace Sys2Proof.Machine

/-- What the block can do next for one agent. -/
inductive Job where
  /-- A whole command is at the head of the queue; `rest` is the queue after it. -/
  | command (i : Instr) (rest : List Word)
  /-- The word at the head is illegal; only it is consumed (R304). -/
  | illegal (rest : List Word)
  /-- A SET_CONTROL that was begun has writes left (R1110). -/
  | resume
  deriving DecidableEq, Repr

/-- The word of READ_STATUS, the one word accepted while FAULTED = 1 (R1620). -/
def readStatusWord : Word := 0x06000000#32

/-- What a queue offers a block that is not faulted: nothing while it is empty or its legal command word
waits for operands (log 7), an illegal word, or a whole command. -/
def queueJob (queue : List Word) : Option Job :=
  match decode queue with
  | .ok i rest => some (.command i rest)
  | .reject .empty => none
  | .reject .incomplete => none
  | .reject _ => some (.illegal queue.tail)

/-- What a queue offers a faulted block: a legal READ_STATUS at its head, or nothing (R1620). DESIGN CHOICE
(log 25): the words left behind an illegal word (R1610) are told from command words by their bits alone, so
one of them that is 0x06000000 is taken as a READ_STATUS. -/
def faultedJob : List Word → Option Job
  | [] => none
  | w :: rest => if w = readStatusWord then some (.command .readStatus rest) else none

/-- What the block can do next for an agent. A SET_CONTROL begun comes before the agent's next command
(R300); a faulted block performs none of its writes (R1110). -/
def agentJob (faulted : Bool) (ag : Agent) : Option Job :=
  if faulted then faultedJob ag.queue
  else if ag.pending.isEmpty then queueJob ag.queue else some .resume

/-- The agents the block can do something for, and what. -/
def State.jobs (s : State) : List (Nat × Job) :=
  s.agents.filterMap (fun e => (agentJob s.faulted e.2).map (fun j => (e.1, j)))

/-- One of a list of choices: the only one, or one drawn (R300). -/
def pickJob (d : Nat) : List (Nat × Job) → Option (Nat × Job)
  | [] => none
  | [j] => some j
  | js => js[d % js.length]?

/-- A command taken from agent `a`'s queue, `rest` being left there: the agent is the issuing one. -/
def State.take (s : State) (a : Nat) (rest : List Word) : State :=
  (({ s with cur := a }).setAgent a { s.agent a with queue := rest }).tick

/-- One more write of agent `a`'s SET_CONTROL performed (R1110). -/
def State.resumeControl (s : State) (a : Nat) : State :=
  (({ s with cur := a }).controlStep (s.agent a).pending).tick

/-- What stops a block that can do nothing: a word it does not accept in the faulted state (R1620), or
nothing to do (R300). -/
def State.noStep (s : State) : Fault :=
  if s.faulted && s.agents.any (fun e => !e.2.queue.isEmpty) then .stuck else .idle

/-- Every agent's queue emptied and its SET_CONTROL dropped, its responses kept. -/
def State.clearQueues (s : State) : List (Nat × Agent) :=
  s.agents.foldl (fun l e => sparsePut Agent.fresh l e.1 ⟨[], e.2.resp, []⟩) []

/-- The words of an opcode-table word placed where the next step takes its command: alone at the head of
agent 0's queue, with no other agent's work before it. -/
def State.fetchFrom (s : State) (ws : List Word) : State :=
  ({ s with agents := s.clearQueues }).setAgent 0 ⟨ws, (s.agent 0).resp, []⟩

end Sys2Proof.Machine
end

