-- ==== Sys2Proof/Machine/Step.lean ====
section
/-! DEFINITION. One step of the block (30_encoding.md R300). -/

namespace Sys2Proof.Machine

/-- One atomic step: one command of one agent, or one write of a SET_CONTROL, or an illegal word's fault
(R300, R1110, R1610). -/
def step (s : State) : Host.Outcome State Fault Refusal :=
  match pickJob (Config.agentDraw s.draws) s.jobs with
  | some (a, .command i rest) => exec i (s.take a rest)
  | some (a, .illegal rest) => .next ((s.take a rest).raise .illegalCommand)
  | some (a, .resume) => .next (s.resumeControl a)
  | none => .fault s.noStep

/-- `s` with the instruction of an opcode-table word as the command the very next step takes (log 17). The
block fetches nothing (10_state.md R102): this stands for an agent that issues the words. In a faulted
state it changes nothing of the fault, so only a READ_STATUS then runs (R1620). -/
def State.withFetchWord (s : State) (nbits w : Nat) : State := s.fetchFrom (tableWords nbits w)

end Sys2Proof.Machine
end

