-- ==== Sys2Proof/Safety.lean ====
section
/-! DEFINITION. What counts as a good state and a safe outcome, and the words the statements use: the
invariant every step keeps (10_state.md R131, 20_memory.md R200 to R212, 40_arena.md R421), the lifecycle
table (49_lifecycle.md R1301), the illegal encodings (30_encoding.md R340), and what a command leaves
unchanged. -/

namespace Sys2Proof.Machine

/-! ## The invariant -/

/-- `lo ≤ v ≤ hi`, and `v` no NaN. -/
def inRange (lo hi v : F32) : Bool := fle lo v && fle v hi

/-- Every binary32 parameter register is in its range (R121). -/
def Params.InRange (ps : Params) : Prop :=
  ∀ p : Param, p ≠ .smoothed → inRange (paramRange p).1 (paramRange p).2 (paramWord ps p) = true

/-- What ENGINE_CREATE fixes (R1305): the capacities and the oscillator links. -/
structure State.Built (s : State) : Prop where
  capacities : ∀ k ∈ delayUnits, (s.delay k).L = s.cfg.maxLenOf k
  linkA : (s.modulation .MAP_A).lfo = .LFO_A
  linkB : (s.modulation .MAP_B).lfo = .LFO_B

/-- The unit invariants (R131), and the place of each buffer in the carved part of the arena (R211,
R212). -/
structure State.UnitsOk (s : State) : Prop where
  cursor : ∀ k ∈ delayUnits, (s.delay k).w < (s.delay k).L
  length : ∀ k ∈ delayUnits, (s.delay k).n + 1 ≤ (s.delay k).L
  aligned : ∀ k ∈ delayUnits, (s.delay k).base % 4 = 0
  region : ∀ k ∈ delayUnits, (s.delay k).base + 4 * (s.delay k).L ≤ s.arena.off
  alphas : ∀ k, admits apKinds k = true → inAlphaRange (s.alpha k) = true
  depths : ∀ k, admits apmKinds k = true → inRange f0 Config.fltMax (s.modulation k).depth = true
  tables : ∀ k, admits lfoKinds k = true → 1 ≤ (s.osc k).N ∧ (s.osc k).N ≤ s.cfg.lfoTableMax
    ∧ (s.osc k).table.length = (s.osc k).N ∧ (s.osc k).idx < (s.osc k).N
  factors : ∀ k, admits dzKinds k = true → inAlphaRange (s.dezip k).beta = true

/-- No two buffers share a byte (R202, R215). -/
def State.RegionsApart (s : State) : Prop :=
  ∀ j ∈ delayUnits, ∀ k ∈ delayUnits, j ≠ k →
    (s.delay j).base + 4 * (s.delay j).L ≤ (s.delay k).base
      ∨ (s.delay k).base + 4 * (s.delay k).L ≤ (s.delay j).base

/-- The invariant of the block: every step keeps it and power-on reset has it. -/
structure State.Inv (s : State) : Prop where
  cfgWf : s.cfg.wf = true
  memWf : s.arena.mem.wf = true
  memInArena : ∀ c ∈ s.arena.mem, c.1 < s.arena.cap
  agentsWf : sparseWf Agent.fresh s.agents = true
  carved : s.arena.off ≤ s.arena.cap
  offAligned : s.arena.off % 4 = 0
  order : (s.created = true → s.reserved = true) ∧ (s.ready = true → s.created = true)
  faultCode : s.faulted = false ↔ s.faultCode = .none
  params : s.params.InRange
  built : s.created = true → s.Built
  units : s.ready = true → s.UnitsOk
  regions : s.ready = true → s.RegionsApart

/-- An outcome of a safe run: a next state, or a step that the block itself does not make. -/
def SafeOutcome : Result → Prop
  | .next _ => True
  | .fault .idle => True
  | .fault .stuck => True
  | .fault .unitState => False
  | .refused _ => False

/-! ## The lifecycle table -/

/-- The legality table of R1301, for FAULTED = 0. -/
def lifecycleLegal (s : State) : Instr → Bool
  | .arenaReserve _ => !s.reserved
  | .arenaCarve _ => s.reserved && !s.ready
  | .engineCreate => s.reserved && !s.created
  | .engineInit => s.created && !s.ready
  | .engineReset => s.ready
  | .readStatus => true
  | .setParam _ _ => true
  | .setControl _ _ _ _ _ _ _ _ _ _ => true
  | .readParam _ => true
  | .processMono _ => s.ready
  | .processStereo _ _ => s.ready
  | .dlProcess _ _ => s.ready
  | .dlSetDelay _ _ => s.ready
  | .dlReset _ => s.ready
  | .apProcess _ _ => s.ready
  | .apSetCoef _ _ => s.ready
  | .apSetDelay _ _ => s.ready
  | .apSetDepth _ _ => s.ready
  | .apReset _ => s.ready
  | .lfoStep _ => s.ready
  | .lfoReset _ => s.ready
  | .opProcess _ _ => s.ready
  | .opSetCutoff _ _ => s.ready
  | .opReset _ => s.ready
  | .satProcess _ _ => s.ready
  | .satSetDrive _ _ => s.ready
  | .dzSmooth _ _ => s.ready
  | .dzSetFactor _ _ => s.ready
  | .dzPreset _ _ => s.ready

/-! ## The illegal encodings -/

/-- The opcodes of R310 that name no unit and take no index. -/
def engineOpcodes : List Nat := [0x01, 0x02, 0x03, 0x04, 0x05, 0x06, 0x11, 0x20, 0x21]

/-- The opcodes of R310 with a parameter index. -/
def paramOpcodes : List Nat := [0x10, 0x12]

/-- The unit-level opcodes of R310 with the unit numbers their kinds have in R320. -/
def unitOpcodes : List (Nat × List Nat) :=
  let dl := [1, 9, 14, 18, 23]
  let apm := [8, 17]
  let ap := [4, 5, 6, 7, 8, 13, 15, 16, 17, 22, 24, 25]
  let lfo := [26, 27]
  let op := [2, 3, 11, 12, 20, 21]
  let sat := [10, 19]
  let dz := [28, 29, 30, 31, 32, 33, 34, 35, 36, 37]
  [(0x30, dl), (0x31, dl), (0x32, dl), (0x40, ap), (0x41, ap), (0x42, ap), (0x43, apm), (0x44, ap),
   (0x50, lfo), (0x51, lfo), (0x60, op), (0x61, op), (0x62, op), (0x70, sat), (0x71, sat),
   (0x80, dz), (0x81, dz), (0x82, dz)]

/-- The unit numbers an opcode may name; none for an opcode that is not unit-level. -/
def unitsOf (opc : Nat) : Option (List Nat) := (unitOpcodes.find? (fun e => e.1 == opc)).map (·.2)

/-- R340, clause by clause, on the three fields of a command word. -/
def IllegalWord (w : Word) : Prop :=
  let opc := w.toNat / 2 ^ 24
  let unit := w.toNat / 2 ^ 16 % 2 ^ 8
  let imm := w.toNat % 2 ^ 16
  -- (a) the opcode is in no row
  (opc ∉ engineOpcodes ∧ opc ∉ paramOpcodes ∧ unitsOf opc = none)
  -- (b) UNIT must be 0 and is not
  ∨ ((opc ∈ engineOpcodes ∨ opc ∈ paramOpcodes) ∧ unit ≠ 0)
  -- (c) the unit is not one the row admits
  ∨ (∃ us, unitsOf opc = some us ∧ unit ∉ us)
  -- (d) IMM16 must be 0 and is not
  ∨ ((opc ∈ engineOpcodes ∨ unitsOf opc ≠ none) ∧ imm ≠ 0)
  -- (e) the parameter index is 10 or more
  ∨ (opc ∈ paramOpcodes ∧ 10 ≤ imm)

/-- What an agent offers a block that is not faulted: writes left of a SET_CONTROL it has begun (R1110), a
whole command at the head of its queue (R300), or an illegal word there (R304). Part of a command is nothing
yet (log 7). -/
def Agent.HasWork (ag : Agent) : Prop :=
  ag.pending ≠ []
    ∨ (∃ i rest, ag.queue = encode i ++ rest ∧ wellFormed i = true)
    ∨ ∃ w rest, ag.queue = w :: rest ∧ IllegalWord w

/-! ## Rounded quotients -/

/-- `n` is the integer nearest `num / den`, and where another is equally near, the one further from zero
(`roundHalfAway` of R24). -/
def NearestAway (num den n : Int) : Prop :=
  ∀ m : Int, (n * den - num).natAbs ≤ (m * den - num).natAbs
    ∧ ((n * den - num).natAbs = (m * den - num).natAbs → m.natAbs ≤ n.natAbs)

/-- `n` is `nk[k]` of R1310 step 1: the exact `R_k · FS / FS_REF`, rounded half away from zero. -/
def ScaledLength (c : Cfg) (k : UnitId) (n : Nat) : Prop :=
  NearestAway (c.refLenOf k * fUnits c.fs) (fUnits c.fsRef) n

/-- `n` is `N_j` of R710 for the rate `rho`: the exact `FS / rho`, rounded half away from zero. -/
def TableLength (c : Cfg) (rho : F32) (n : Nat) : Prop := NearestAway (fUnits c.fs) (fUnits rho) n

/-! ## What a command leaves -/

/-- How many operand words follow a command word: the K column of R310. -/
def operandCount : Instr → Nat
  | .engineCreate | .engineInit | .engineReset | .readStatus | .readParam _ | .dlReset _ | .apReset _
  | .lfoStep _ | .lfoReset _ | .opReset _ => 0
  | .setControl _ _ _ _ _ _ _ _ _ _ => 10
  | .processStereo _ _ => 2
  | .arenaReserve _ | .arenaCarve _ | .setParam _ _ | .processMono _ | .dlProcess _ _
  | .dlSetDelay _ _ | .apProcess _ _ | .apSetCoef _ _ | .apSetDelay _ _ | .apSetDepth _ _
  | .opProcess _ _ | .opSetCutoff _ _ | .satProcess _ _ | .satSetDrive _ _ | .dzSmooth _ _
  | .dzSetFactor _ _ | .dzPreset _ _ => 1

/-- How many response words a command that completes appends: the R column of R310. -/
def responseCount : Instr → Nat
  | .arenaCarve _ | .readStatus | .readParam _ | .processMono _ | .dlProcess _ _ | .apProcess _ _
  | .lfoStep _ | .opProcess _ _ | .satProcess _ _ | .dzSmooth _ _ => 1
  | .processStereo _ _ => 2
  | .arenaReserve _ | .engineCreate | .engineInit | .engineReset | .setParam _ _
  | .setControl _ _ _ _ _ _ _ _ _ _ | .dlSetDelay _ _ | .dlReset _ | .apSetCoef _ _
  | .apSetDelay _ _ | .apSetDepth _ _ | .apReset _ | .lfoReset _ | .opSetCutoff _ _ | .opReset _
  | .satSetDrive _ _ | .dzSetFactor _ _ | .dzPreset _ _ => 0

/-- Whether a command is unit-level: an opcode of 0x30 to 0x82 (R301, R310). -/
def isUnitLevel (i : Instr) : Bool :=
  decide (0x30 ≤ (opcField ((encode i).headD 0)).toNat)

/-- The words `ws` are appended to the issuing agent's response channel, and no other port changes
(R32). -/
def Responded (s t : State) (ws : List Word) : Prop :=
  t.agent s.cur = { s.agent s.cur with resp := (s.agent s.cur).resp ++ ws }
    ∧ ∀ a, a ≠ s.cur → t.agent a = s.agent a

/-- The word at byte offset `a` reads `v`, and every byte outside its four reads as before. -/
def StoredWord (s t : State) (a : Nat) (v : Word) : Prop :=
  memReadWord t.arena.mem a = v
    ∧ ∀ b, b < a ∨ a + 4 ≤ b → memReadByte t.arena.mem b = memReadByte s.arena.mem b

/-- Every byte of the buffers of the units `ks` reads 0, and every byte outside them reads as before. -/
def ZeroedBuffers (s t : State) (ks : List UnitId) : Prop :=
  (∀ k ∈ ks, ∀ i, i < (t.delay k).L → t.bufRead k i = 0#32)
    ∧ ∀ b, (∀ k ∈ ks, b < (t.delay k).base ∨ (t.delay k).base + 4 * (t.delay k).L ≤ b) →
      memReadByte t.arena.mem b = memReadByte s.arena.mem b

/-- A supply of values for NaN results: every one is a NaN, and nothing more is known of it (R22). -/
def NaNSupply (q : Nat → F32) : Prop := ∀ i, fIsNaN (q i) = true

/-- The block takes commands and has been initialised: FAULTED = 0 and READY = 1. -/
def State.Running (s : State) : Prop := s.faulted = false ∧ s.ready = true

/-- The fields L, base, n and w of unit `k` become `u`, and no other unit's change. -/
def OnlyDelay (s t : State) (k : UnitId) (u : Delay) : Prop :=
  t.delay k = u ∧ ∀ j, j ≠ k → t.delay j = s.delay j

/-- What ENGINE_RESET and ENGINE_INIT leave of the signal state (R1310, R1320), the targets being `T`. -/
structure SignalCleared (t : State) (T : Coefs) : Prop where
  cursors : ∀ k ∈ delayUnits, (t.delay k).w = 0
  phases : ∀ k, admits lfoKinds k = true → (t.osc k).idx = 0
  poles : ∀ k, admits opKinds k = true → (t.pole k).s = 0#32
  accumulators : t.xfbA = 0#32 ∧ t.xfbB = 0#32
  dezips : t.dezip .DZ_A1 = ⟨t.cfg.dezipBeta, T.alpha1⟩ ∧ t.dezip .DZ_A2 = ⟨t.cfg.dezipBeta, T.alpha2⟩
    ∧ t.dezip .DZ_AT = ⟨t.cfg.dezipBeta, T.alphaT⟩ ∧ t.dezip .DZ_DEC = ⟨t.cfg.dezipBeta, T.decay⟩
    ∧ t.dezip .DZ_MIX = ⟨t.cfg.dezipBeta, T.mix⟩ ∧ t.dezip .DZ_BILP = ⟨t.cfg.dezipBeta, T.betaILP⟩
    ∧ t.dezip .DZ_BIHP = ⟨t.cfg.dezipBeta, T.betaIHP⟩ ∧ t.dezip .DZ_BHF = ⟨t.cfg.dezipBeta, T.betaHF⟩
    ∧ t.dezip .DZ_BLF = ⟨t.cfg.dezipBeta, T.betaLF⟩ ∧ t.dezip .DZ_DRV = ⟨t.cfg.dezipBeta, T.drive⟩

/-- What the write-back of R1210 sets, in mode `sm`, from the coefficients `C` and the predelay `nPD`. -/
structure WrittenBack (t : State) (sm : Bool) (C : Coefs) (nPD : Nat) : Prop where
  predelay : (t.delay .PD).n = nPD
  inputPoles : (t.pole .ILP).beta = C.betaILP ∧ (t.pole .IHP).beta = C.betaIHP
  dampingLow : (t.pole .DLP_A).beta = C.betaHF ∧ (t.pole .DLP_B).beta = C.betaHF
  dampingHigh : (t.pole .DHP_A).beta = C.betaLF ∧ (t.pole .DHP_B).beta = C.betaLF
  diffusers : t.alpha .AP1 = fclamp C.alpha1 f0 Config.alphaMax
    ∧ t.alpha .AP2 = fclamp C.alpha1 f0 Config.alphaMax
    ∧ t.alpha .AP3 = fclamp C.alpha2 f0 Config.alphaMax
    ∧ t.alpha .AP4 = fclamp C.alpha2 f0 Config.alphaMax
  tank : t.alpha .TAP_A = fclamp C.alphaT f0 Config.alphaMax
    ∧ t.alpha .TAP_B = fclamp C.alphaT f0 Config.alphaMax
  modulated : t.alpha .MAP_A = t.cfg.alphaMod ∧ t.alpha .MAP_B = t.cfg.alphaMod
  depths : (t.modulation .MAP_A).depth = (if sm then t.cfg.depthA else 0#32)
    ∧ (t.modulation .MAP_B).depth = (if sm then t.cfg.depthB else 0#32)
  drives : t.drive .SAT_A = C.drive ∧ t.drive .SAT_B = C.drive

/-- The four extra allpasses (R1225): only smoothed mode steps them and writes their alpha. -/
def extraAllpasses : List UnitId := [.XAP1_A, .XAP2_A, .XAP1_B, .XAP2_B]

/-- What stays when only signal state, coefficients and responses may change: everything but the arena's
bytes, the unit fields, the accumulators, the ports and the draw counter; and of the arena and the delay
units, the allocation and the regions (R203, R204). -/
def KeepsAllocation (s t : State) : Prop :=
  t.arena.cap = s.arena.cap ∧ t.arena.off = s.arena.off
    ∧ ∀ k ∈ delayUnits, (t.delay k).L = (s.delay k).L ∧ (t.delay k).base = (s.delay k).base

/-- The units an engine sample steps that own a buffer (R1220, R1225): the four extra allpasses only in
smoothed mode. -/
def steppedUnits (sm : Bool) : List UnitId :=
  if sm then delayUnits
  else [.PD, .AP1, .AP2, .AP3, .AP4, .MAP_A, .DL1_A, .TAP_A, .DL2_A, .MAP_B, .DL1_B, .TAP_B, .DL2_B]

/-- What an engine sample leaves (R1201 to R1230): the registers, the flags, the allocation and the LFO
tables; every n but PD's; every byte outside the cells written; and, where they are not stepped, the extra
allpasses. What it moves on by one: the write cursor of each stepped unit and both LFO phases. -/
structure EngineFrame (s t : State) : Prop where
  rest : t = { s with
    arena := { s.arena with mem := t.arena.mem }, delays := t.delays, alphas := t.alphas,
    mods := t.mods, poles := t.poles, drives := t.drives, oscs := t.oscs, dezips := t.dezips,
    xfbA := t.xfbA, xfbB := t.xfbB, agents := t.agents, draws := t.draws }
  regions : ∀ k ∈ delayUnits, (t.delay k).L = (s.delay k).L ∧ (t.delay k).base = (s.delay k).base
  lengths : ∀ k ∈ fixedDelayUnits, (t.delay k).n = (s.delay k).n
  stepped : ∀ k ∈ steppedUnits s.params.smoothed,
    (t.delay k).w = ((s.delay k).w + 1) % (s.delay k).L
  held : s.params.smoothed = false → ∀ k ∈ extraAllpasses,
    t.delay k = s.delay k ∧ t.alpha k = s.alpha k
  bytes : ∀ b, (∀ k ∈ steppedUnits s.params.smoothed,
      b < (s.delay k).base + 4 * (s.delay k).w ∨ (s.delay k).base + 4 * (s.delay k).w + 4 ≤ b) →
    memReadByte t.arena.mem b = memReadByte s.arena.mem b
  phases : ∀ k, admits lfoKinds k = true →
    t.osc k = { s.osc k with idx := ((s.osc k).idx + 1) % (s.osc k).N }
  links : ∀ k, admits apmKinds k = true → (t.modulation k).lfo = (s.modulation k).lfo
  factors : ∀ k, admits dzKinds k = true → (t.dezip k).beta = (s.dezip k).beta
  dezips : s.cfg.dezipEnabled = false → t.dezips = s.dezips

/-- `n` samples of a delay line, oldest output first: DLstep (R500) applied to each input in turn. -/
def dlRun (k : UnitId) : List F32 → State → List F32 × State
  | [], s => ([], s)
  | x :: xs, s => ((dlStep k x s).1 :: (dlRun k xs (dlStep k x s).2).1, (dlRun k xs (dlStep k x s).2).2)

/-- `n` calls of an oscillator, oldest first: LFOstep (R700) applied `n` times. -/
def lfoRun (k : UnitId) : Nat → State → List F32 × State
  | 0, s => ([], s)
  | n + 1, s => ((lfoStep k s).1 :: (lfoRun k n (lfoStep k s).2).1, (lfoRun k n (lfoStep k s).2).2)

/-- The position of a unit among the delay-owning units in carve order (R205). -/
def carveBefore (k : UnitId) : List UnitId := delayUnits.takeWhile (fun j => decide (j ≠ k))

/-- The bytes ENGINE_INIT carves for a list of units (R1310). -/
def carveTotal (c : Cfg) (ks : List UnitId) : Nat := (ks.map (fun k => 4 * c.maxLenOf k)).sum

end Sys2Proof.Machine
end

