-- ==== Sys2Proof/Certificates/Slice0/Obligations.lean ====
section
/-! DEFINITION. The statements for the provers. Where a formula's operations take their NaN results from
`q`, nothing is known of `q` but that each of its values is a NaN (R22): a response or a field is then the
binary32 value that the rule's arithmetic gives, and some NaN where that arithmetic gives a NaN. -/

open Sys2Proof Sys2Proof.Machine

/-! ## Encoding -/

/-- 30_encoding.md R301, R302, R310, R320, R330: the words of every well-formed instruction, with every
operand at every value, decode to that instruction and leave the words after them. -/
def Obligations.DecodeOfEncode : Prop :=
  ∀ (i : Instr) (rest : List Word), wellFormed i = true → decode (encode i ++ rest) = .ok i rest

/-- 30_encoding.md R302, R311, R345: what decodes is well-formed and stands in the queue as its own
encoding, followed by what is left. -/
def Obligations.EncodeOfDecode : Prop :=
  ∀ (ws rest : List Word) (i : Instr), decode ws = .ok i rest →
    wellFormed i = true ∧ ws = encode i ++ rest

/-- 30_encoding.md R340: a command word is rejected as illegal exactly where one of the five clauses
holds, whatever words follow it. -/
def Obligations.IllegalWordsAreRejected : Prop :=
  ∀ (w : Word) (rest : List Word),
    (∃ r, decode (w :: rest) = .reject r ∧ r ≠ .incomplete ∧ r ≠ .empty) ↔ IllegalWord w

/-- 30_encoding.md R311 and the examples of the command rules: words written out from the spec decode to
the commands they stand for. -/
def Obligations.DecodedExampleWords : Prop :=
  decode [0x30010000, 0x3F800000] = .ok (.dlProcess .PD 0x3F800000) []
    ∧ decode [0x10000004, 0x3F733333] = .ok (.setParam .decay 0x3F733333) []
    ∧ decode [0x40110000, 0x3F800000] = .ok (.apProcess .MAP_B 0x3F800000) []
    ∧ decode [0x01000000, 0x00001000] = .ok (.arenaReserve 0x1000) []
    ∧ decode [0x43080000, 0x40000000] = .ok (.apSetDepth .MAP_A 0x40000000) []
    ∧ decode [0x511B0000] = .ok (.lfoReset .LFO_B) []
    ∧ decode [0x610B0000, 0] = .ok (.opSetCutoff .DLP_A 0) []
    ∧ decode [0x71130000, 0xC1A00000] = .ok (.satSetDrive .SAT_B 0xC1A00000) []
    ∧ decode [0x821F0000, 0] = .ok (.dzPreset .DZ_DEC 0) []
    ∧ decode [0x21000000, 0x3F800000, 0x3F800000] = .ok (.processStereo 0x3F800000 0x3F800000) []
    ∧ decode [0x43040000, 0x40000000] = .reject .badUnit

/-! ## The step -/

/-- 30_encoding.md R300, R302: where one agent alone has a port and the words at the head of its queue
decode to an instruction, the step takes those words and is that instruction's meaning. That a command is
taken once all its words are there is log 7. -/
def Obligations.StepRunsDecodedCommand : Prop :=
  ∀ (s : State) (a : Nat) (ag : Agent) (i : Instr) (rest : List Word),
    s.agents = [(a, ag)] → s.faulted = false → ag.pending = [] → decode ag.queue = .ok i rest →
    step s = exec i (s.take a rest)
      ∧ (s.take a rest).cur = a
      ∧ (s.take a rest).agent a = { ag with queue := rest }
      ∧ s.take a rest
          = { s with cur := a, agents := (s.take a rest).agents, draws := (s.take a rest).draws }

/-- 30_encoding.md R300, 47_engine_control.md R1110: with FAULTED = 0 and any number of agents, the step goes
on exactly where some agent has work: a SET_CONTROL it has begun, a whole command, or an illegal word at the
head of its queue. Whatever the step does it does for one agent: it performs the next write of a SET_CONTROL
the agent has begun, or else it takes the command at the head of that agent's queue, or raises
ILLEGAL_COMMAND for the word there. That part of a command is no work yet is log 7. -/
def Obligations.StepServesOneAgent : Prop :=
  ∀ s : State, s.Inv → s.faulted = false →
    ((∃ t, step s = .next t) ↔ ∃ a, (s.agent a).HasWork)
      ∧ ∀ t, step s = .next t →
        ∃ a, (∃ p v more, (s.agent a).pending = (p, v) :: more
              ∧ t.params = setParamValue s.params p v
              ∧ t.agent a = { s.agent a with pending := more }
              ∧ (∀ b, b ≠ a → t.agent b = s.agent b)
              ∧ t = { s with params := t.params, agents := t.agents, cur := a, draws := t.draws })
        ∨ (s.agent a).pending = []
            ∧ ((∃ i rest, (s.agent a).queue = encode i ++ rest ∧ wellFormed i = true
                  ∧ exec i (s.take a rest) = .next t)
              ∨ (∃ w rest, (s.agent a).queue = w :: rest ∧ IllegalWord w
                  ∧ t = (s.take a rest).raise .illegalCommand))

/-- 30_encoding.md R304, R340 and 60_exceptions.md R1605, R1610: an illegal word at the head raises
ILLEGAL_COMMAND. Only that word is consumed, nothing is responded, and nothing else changes. -/
def Obligations.IllegalWordRaisesIllegalCommand : Prop :=
  ∀ (s : State) (a : Nat) (ag : Agent) (w : Word) (rest : List Word),
    s.agents = [(a, ag)] → s.faulted = false → ag.pending = [] → ag.queue = w :: rest →
    IllegalWord w →
    ∃ t, step s = .next t
      ∧ t.agent a = { ag with queue := rest }
      ∧ t.statusWord = s.statusWord ||| 0x00000108#32
      ∧ t = { s with
          faulted := true, faultCode := .illegalCommand, agents := t.agents, cur := a,
          draws := t.draws }

/-- 60_exceptions.md R1620: a faulted block executes a legal READ_STATUS word at the head of some queue and
does nothing else. It steps exactly where there is such a word, and a step changes no flag, no fault code
and nothing but that agent's port. That an agent whose SET_CONTROL was cut short is served alike is log 8, and that a word left
behind an illegal one is served alike is log 25. -/
def Obligations.FaultedBlockAcceptsOnlyReadStatus : Prop :=
  ∀ (s : State), s.Inv → s.faulted = true →
    ((∃ t, step s = .next t) ↔ ∃ a rest, (s.agent a).queue = 0x06000000#32 :: rest)
      ∧ ∀ t, step s = .next t →
          ∃ a rest, (s.agent a).queue = 0x06000000#32 :: rest
            ∧ t.agent a = { s.agent a with
                queue := rest, resp := (s.agent a).resp ++ [s.statusWord] }
            ∧ (∀ b, b ≠ a → t.agent b = s.agent b)
            ∧ t = { s with agents := t.agents, cur := a, draws := t.draws }

/-- 60_exceptions.md R1620, 10_state.md R105: once faulted, the block stays so with the first fault's code
over any number of steps, and no step writes a register, a unit or the arena. -/
def Obligations.FaultStaysOverRuns : Prop :=
  ∀ (n : Nat) (s t : State), s.faulted = true → Host.Core.run Sys2Proof.core n s = .next t →
    t = { s with agents := t.agents, cur := t.cur, draws := t.draws }

/-! ## Reset -/

/-- 70_reset_and_hazards.md R1701, 10_state.md R160, R121: from every state, power-on reset empties every
port, clears the flags and STATUS, and gives every parameter register its power-on value. The model's own
choices (the unit fields and the accumulators at reset, logs 10 and 11) are not stated. -/
def Obligations.PowerOnResetValues : Prop :=
  ∀ s : State, s.powerOnReset.statusWord = 0#32
    ∧ s.powerOnReset.faulted = false ∧ s.powerOnReset.faultCode = .none
    ∧ s.powerOnReset.reserved = false ∧ s.powerOnReset.created = false
    ∧ s.powerOnReset.ready = false
    ∧ s.powerOnReset.arena.cap = 0 ∧ s.powerOnReset.arena.off = 0
    ∧ (∀ a, (s.powerOnReset.agent a).queue = [] ∧ (s.powerOnReset.agent a).resp = []
        ∧ (s.powerOnReset.agent a).pending = [])
    ∧ [Param.predelayMs, .inputLowpassHz, .inputHighpassHz, .diffusion, .decay, .driveDB,
        .hfDampingHz, .lfDampingHz, .mixPercent, .smoothed].map (paramWord s.powerOnReset.params)
      = [0x00000000, 0x46ABE000, 0x41200000, 0x3F000000, 0x3F000000, 0x3DCCCCCD, 0x469C4000,
          0x41200000, 0x42C80000, 0x00000000]
    ∧ s.powerOnReset.cfg = s.cfg

/-- 10_state.md R131, 40_arena.md R421, 70_reset_and_hazards.md R1701: the state after reset has the
invariant, and what comes from outside keeps it: words issued, responses collected, power-on reset. -/
def Obligations.ResetHasInvariant : Prop :=
  State.reset.Inv
    ∧ ∀ s : State, s.Inv →
        (∀ a ws, (s.issue a ws).Inv) ∧ (∀ a, (s.collect a).Inv) ∧ s.powerOnReset.Inv

/-! ## Invariants -/

/-- 10_state.md R131, 20_memory.md R202, R211, 40_arena.md R421, 10_state.md R121: every step keeps the
invariant, from every state that has it: the memory's canonical form, the arena bounds, the parameter
ranges, the unit invariants, the lifecycle order, and buffers that never overlap. -/
def Obligations.StepKeepsInvariant : Prop :=
  ∀ s t : State, s.Inv → step s = .next t → t.Inv

/-- 20_memory.md R212: from a state with the invariant no step runs into storage that does not exist, and
none is refused. The outcomes named are the model's own (logs 9 and 14). -/
def Obligations.InvariantStepsAreSafe : Prop := ∀ s : State, s.Inv → SafeOutcome (step s)

/-! ## Lifecycle and faults -/

/-- 49_lifecycle.md R1301, 60_exceptions.md R1605, R1615: with FAULTED = 0, a well-formed command whose
condition in the table is false raises LIFECYCLE before any effect. -/
def Obligations.IllegalLifecycleRaisesLifecycle : Prop :=
  ∀ (i : Instr) (s : State), wellFormed i = true → s.faulted = false →
    lifecycleLegal s i = false →
    exec i s = .next { s with faulted := true, faultCode := .lifecycle }

/-- 60_exceptions.md R1601, R1605, R1625, R1630: a legal command that raises a fault is an ARENA_CARVE with
ARENA_OVERFLOW or an ENGINE_INIT with one of its three codes. It leaves everything but FAULTED, FAULT_CODE
and, for ENGINE_INIT, the carves made before. -/
def Obligations.OnlyCarvesAndInitRaise : Prop :=
  ∀ (i : Instr) (s t : State), wellFormed i = true → s.faulted = false →
    lifecycleLegal s i = true → exec i s = .next t → t.faulted = true →
    ((∃ b, i = .arenaCarve b) ∧ t.faultCode = .arenaOverflow
        ∧ t = { s with faulted := true, faultCode := t.faultCode })
      ∨ (i = .engineInit
          ∧ (t.faultCode = .delayCapacity ∨ t.faultCode = .lfoConfig ∨ t.faultCode = .arenaOverflow)
          ∧ t = { s with
              faulted := true, faultCode := t.faultCode,
              arena := { s.arena with off := t.arena.off }, delays := t.delays }
          ∧ ∀ k ∈ delayUnits, t.delay k = { s.delay k with base := (t.delay k).base })

/-- 49_lifecycle.md R1340 (which the spec derives from R1301 and R1305 to R1330), 10_state.md R105: the flag
change of each command that completes, and none for a command that raises a fault. -/
def Obligations.FlagTransitions : Prop :=
  ∀ (i : Instr) (s t : State), exec i s = .next t →
    (t.faulted = s.faulted →
        (t.reserved, t.created, t.ready) =
          (match i with
          | .arenaReserve _ => (true, s.created, s.ready)
          | .engineCreate => (s.reserved, true, s.ready)
          | .engineInit => (s.reserved, s.created, true)
          | _ => (s.reserved, s.created, s.ready)))
      ∧ (t.faulted ≠ s.faulted →
          t.faulted = true ∧ t.faultCode ≠ .none
            ∧ (t.reserved, t.created, t.ready) = (s.reserved, s.created, s.ready))

/-- 30_encoding.md R302, R310, 00_scope.md R33: a command that completes appends exactly R words to its own
agent's response channel, one that raises a fault appends none, and no other port changes. -/
def Obligations.ResponseCounts : Prop :=
  ∀ (i : Instr) (s t : State), exec i s = .next t →
    (∃ ws, (t.agent s.cur).resp = (s.agent s.cur).resp ++ ws
        ∧ ws.length = (if t.faulted = s.faulted then responseCount i else 0))
      ∧ (t.agent s.cur).queue = (s.agent s.cur).queue
      ∧ ∀ a, a ≠ s.cur → t.agent a = s.agent a

/-- 10_state.md R101, R130, 20_memory.md R204: the parameter registers are written only by SET_PARAM and
SET_CONTROL; the const fields L and lfo, and the capacity, each only by the command that sets them up; the
carved offset only by ARENA_RESERVE, by ARENA_CARVE before READY and by ENGINE_INIT; the place of a buffer and
the LFO tables only by ENGINE_INIT; and after READY the allocation, the place and the size of every buffer
stay. -/
def Obligations.WhoWritesWhat : Prop :=
  ∀ (i : Instr) (s t : State), exec i s = .next t →
    t.cfg = s.cfg
      ∧ ((∀ p v, i ≠ .setParam p v) → (∀ a b c d e f g h j k, i ≠ .setControl a b c d e f g h j k) →
          t.params = s.params)
      ∧ (i ≠ .engineCreate →
          (∀ k ∈ delayUnits, (t.delay k).L = (s.delay k).L)
            ∧ ∀ k, admits apmKinds k = true → (t.modulation k).lfo = (s.modulation k).lfo)
      ∧ ((∀ c, i ≠ .arenaReserve c) → t.arena.cap = s.arena.cap)
      ∧ ((∀ c, i ≠ .arenaReserve c) → (∀ b, i = .arenaCarve b → s.ready = true) → i ≠ .engineInit →
          t.arena.off = s.arena.off)
      ∧ (i ≠ .engineInit → ∀ k ∈ delayUnits, (t.delay k).base = (s.delay k).base)
      ∧ (i ≠ .engineInit → ∀ k, admits lfoKinds k = true →
          (t.osc k).N = (s.osc k).N ∧ (t.osc k).table = (s.osc k).table)
      ∧ (s.Inv → s.ready = true → KeepsAllocation s t)

/-- 47_engine_control.md R1160: a unit-level command never reads the parameter registers: with other values
in them it does the same and leaves them alone. -/
def Obligations.UnitCommandsIgnoreParameters : Prop :=
  ∀ (i : Instr) (s : State) (ps : Params), isUnitLevel i = true →
    exec i { s with params := ps } =
      match exec i s with
      | .next t => .next { t with params := ps }
      | .fault f => .fault f
      | .refused r => .refused r

/-! ## The arena commands -/

/-- 40_arena.md R401, 20_memory.md R201: ARENA_RESERVE sets the capacity, carves nothing and makes every
byte 0. -/
def Obligations.ArenaReserveZeroesTheArena : Prop :=
  ∀ (cap : Word) (s : State), s.faulted = false → s.reserved = false →
    ∃ t, exec (.arenaReserve cap) s = .next t
      ∧ t.arena.cap = cap.toNat ∧ t.arena.off = 0
      ∧ (∀ a, memReadByte t.arena.mem a = 0#8)
      ∧ (∀ a, memReadWord t.arena.mem a = 0#32)
      ∧ t = { s with reserved := true, arena := t.arena }

/-- 40_arena.md R410, 20_memory.md R202: ARENA_CARVE answers the offset carved so far and moves it on by the
byte count rounded up to whole words; past the capacity it raises ARENA_OVERFLOW and moves nothing. -/
def Obligations.ArenaCarveBumpsTheOffset : Prop :=
  ∀ (b : Word) (s : State), s.faulted = false → s.reserved = true → s.ready = false →
    ∃ size, 4 ∣ size ∧ b.toNat ≤ size ∧ size < b.toNat + 4
      ∧ (s.arena.off + size ≤ s.arena.cap →
          ∃ t, exec (.arenaCarve b) s = .next t
            ∧ Responded s t [BitVec.ofNat 32 s.arena.off]
            ∧ t = { s with
                arena := { s.arena with off := s.arena.off + size }, agents := t.agents })
      ∧ (s.arena.cap < s.arena.off + size →
          exec (.arenaCarve b) s =
            .next { s with faulted := true, faultCode := .arenaOverflow })

/-! ## The lifecycle commands -/

/-- 49_lifecycle.md R1305: ENGINE_CREATE fixes every L and both oscillator links and reaches no arena byte
and no other field. -/
def Obligations.EngineCreateFixesConstFields : Prop :=
  ∀ s : State, s.faulted = false → s.reserved = true → s.created = false →
    ∃ t, exec .engineCreate s = .next t
      ∧ (∀ k ∈ delayUnits, t.delay k = { s.delay k with L := s.cfg.maxLenOf k })
      ∧ t.modulation .MAP_A = { s.modulation .MAP_A with lfo := .LFO_A }
      ∧ t.modulation .MAP_B = { s.modulation .MAP_B with lfo := .LFO_B }
      ∧ t = { s with created := true, delays := t.delays, mods := t.mods }

/-- 49_lifecycle.md R1310, 10_state.md R161, 20_memory.md R205: an ENGINE_INIT whose checks pass carves the
buffers in unit order from the offset it finds, zeroes them and no other byte, sets every unit up from the
targets of the registers as they stand, and sets READY. The fixed lengths and both table lengths are the
exact quotients of R1310 and R710, rounded to the nearest integer with ties away from zero (R24). -/
def Obligations.EngineInitSetsUpTheEngine : Prop :=
  ∀ s : State, s.Inv → s.faulted = false → s.created = true → s.ready = false →
    (∀ k ∈ fixedDelayUnits, ∃ n, ScaledLength s.cfg k n ∧ n + 1 ≤ s.cfg.maxLenOf k) →
    (∀ rho, rho = s.cfg.lfoRateA ∨ rho = s.cfg.lfoRateB →
      ∃ n, TableLength s.cfg rho n ∧ 1 ≤ n ∧ n ≤ s.cfg.lfoTableMax) →
    s.arena.off + carveTotal s.cfg delayUnits ≤ s.arena.cap →
    ∃ t, exec .engineInit s = .next t
      ∧ t.arena.cap = s.arena.cap
      ∧ t.arena.off = s.arena.off + carveTotal s.cfg delayUnits
      ∧ (∀ k ∈ delayUnits, (t.delay k).L = s.cfg.maxLenOf k
          ∧ (t.delay k).base = s.arena.off + carveTotal s.cfg (carveBefore k))
      ∧ (∀ k ∈ fixedDelayUnits, ScaledLength s.cfg k (t.delay k).n)
      ∧ ZeroedBuffers s t delayUnits
      ∧ SignalCleared t (targets s)
      ∧ WrittenBack t s.params.smoothed (targets s) (predelayLen s)
      ∧ (∀ k ∈ extraAllpasses, t.alpha k = fclamp (targets s).alphaT f0 Config.alphaMax)
      ∧ TableLength s.cfg s.cfg.lfoRateA (t.osc .LFO_A).N
      ∧ TableLength s.cfg s.cfg.lfoRateB (t.osc .LFO_B).N
      ∧ (∃ q, NaNSupply q ∧ ∀ k, admits lfoKinds k = true → (t.osc k).table.length = (t.osc k).N
          ∧ ∀ j, j < (t.osc k).N → ∃ a b c, (t.osc k).table[j]? =
              some (fnum Config.sinF (q a)
                (fdiv (q b) (fmul (q c) 0x40C90FDB#32 (BitVec.ofNat 32 (roundMag (j * 2 ^ 149) 1)))
                  (BitVec.ofNat 32 (roundMag ((t.osc k).N * 2 ^ 149) 1)))))
      ∧ t = { s with
          ready := true, arena := t.arena, delays := t.delays, alphas := t.alphas,
          mods := t.mods, poles := t.poles, drives := t.drives, oscs := t.oscs,
          dezips := t.dezips, xfbA := t.xfbA, xfbB := t.xfbB, draws := t.draws }

/-- 49_lifecycle.md R1310, 43_lfo.md R710, 60_exceptions.md R1625: ENGINE_INIT's checks in their order. A
length too long raises DELAY_CAPACITY and then a table too short or too long raises LFO_CONFIG, both before
any write; a carve that does not fit raises ARENA_OVERFLOW, with the carves before it made. The lengths
checked are the exact quotients of R1310 and R710, rounded half away from zero (R24). -/
def Obligations.EngineInitFaultsInOrder : Prop :=
  ∀ s : State, s.Inv → s.faulted = false → s.created = true → s.ready = false →
    ((∃ k ∈ fixedDelayUnits, ∃ n, ScaledLength s.cfg k n ∧ s.cfg.maxLenOf k < n + 1) →
        exec .engineInit s = .next { s with faulted := true, faultCode := .delayCapacity })
      ∧ ((∀ k ∈ fixedDelayUnits, ∃ n, ScaledLength s.cfg k n ∧ n + 1 ≤ s.cfg.maxLenOf k) →
          (∃ rho n, (rho = s.cfg.lfoRateA ∨ rho = s.cfg.lfoRateB) ∧ TableLength s.cfg rho n
            ∧ (n < 1 ∨ s.cfg.lfoTableMax < n)) →
          exec .engineInit s = .next { s with faulted := true, faultCode := .lfoConfig })
      ∧ ((∀ k ∈ fixedDelayUnits, ∃ n, ScaledLength s.cfg k n ∧ n + 1 ≤ s.cfg.maxLenOf k) →
          (∀ rho, rho = s.cfg.lfoRateA ∨ rho = s.cfg.lfoRateB →
            ∃ n, TableLength s.cfg rho n ∧ 1 ≤ n ∧ n ≤ s.cfg.lfoTableMax) →
          ∀ k ∈ delayUnits,
          s.arena.off + carveTotal s.cfg (carveBefore k) ≤ s.arena.cap →
          s.arena.cap < s.arena.off + carveTotal s.cfg (carveBefore k) + 4 * s.cfg.maxLenOf k →
          ∃ t, exec .engineInit s = .next t
            ∧ t.arena.off = s.arena.off + carveTotal s.cfg (carveBefore k)
            ∧ (∀ j ∈ carveBefore k, t.delay j =
                { s.delay j with base := s.arena.off + carveTotal s.cfg (carveBefore j) })
            ∧ (∀ j, j ∉ carveBefore k → t.delay j = s.delay j)
            ∧ t = { s with
                faulted := true, faultCode := .arenaOverflow,
                arena := { s.arena with off := t.arena.off }, delays := t.delays })

/-- 49_lifecycle.md R1320, 70_reset_and_hazards.md R1710: ENGINE_RESET zeroes the buffers and the signal
state, presets the dezippers, and keeps everything else. -/
def Obligations.EngineResetClearsSignalState : Prop :=
  ∀ s : State, s.Inv → s.Running →
    ∃ t, exec .engineReset s = .next t
      ∧ ZeroedBuffers s t delayUnits
      ∧ SignalCleared t (targets s)
      ∧ (∀ k ∈ delayUnits, t.delay k = { s.delay k with w := 0 })
      ∧ (∀ k, admits opKinds k = true → t.pole k = { s.pole k with s := 0#32 })
      ∧ (∀ k, admits lfoKinds k = true → t.osc k = { s.osc k with idx := 0 })
      ∧ t = { s with
          arena := { s.arena with mem := t.arena.mem }, delays := t.delays, poles := t.poles,
          oscs := t.oscs, dezips := t.dezips, xfbA := t.xfbA, xfbB := t.xfbB, draws := t.draws }

/-- 49_lifecycle.md R1330, 10_state.md R110: READ_STATUS answers the status word in every state, faulted or
not, and changes nothing else. -/
def Obligations.ReadStatusReportsTheFlags : Prop :=
  ∀ s : State, ∃ t, exec .readStatus s = .next t
    ∧ Responded s t [s.statusWord]
    ∧ t = { s with agents := t.agents }
    ∧ s.statusWord.toNat = s.reserved.toNat + 2 * s.created.toNat + 4 * s.ready.toNat
        + 8 * s.faulted.toNat
        + 256 * (if s.faulted then
            (match s.faultCode with
            | .none => 0 | .illegalCommand => 1 | .lifecycle => 2 | .arenaOverflow => 3
            | .delayCapacity => 4 | .lfoConfig => 5) else 0)

/-! ## The control commands -/

/-- 47_engine_control.md R1101, 10_state.md R121: SET_PARAM clamps its operand into the register's range, row
by row of R121's table, a NaN to the lower bound; register 9 takes 1 for a nonzero operand. No other register
and nothing else changes. -/
def Obligations.SetParamClampsOneRegister : Prop :=
  ∀ (p : Param) (v : Word) (s : State), s.faulted = false →
    let clamped := fun lo hi : F32 =>
      if fIsNaN v || flt v lo then lo else if flt hi v then hi else v
    ∃ t, exec (.setParam p v) s = .next t
      ∧ paramWord t.params p =
          (match p with
          | .predelayMs => clamped 0x00000000#32 0x7F800000#32       -- [0, +∞]
          | .inputLowpassHz => clamped 0x41200000#32 0x46ABE000#32   -- [10, 22000]
          | .inputHighpassHz => clamped 0x41200000#32 0x46ABE000#32  -- [10, 22000]
          | .diffusion => clamped 0x00000000#32 0x3F800000#32        -- [0, 1]
          | .decay => clamped 0x00000000#32 0x3F800000#32            -- [0, 1]
          | .driveDB => clamped 0x00000000#32 0x42700000#32          -- [0, 60]
          | .hfDampingHz => clamped 0x43C80000#32 0x469C4000#32      -- [400, 20000]
          | .lfDampingHz => clamped 0x41200000#32 0x453B8000#32      -- [10, 3000]
          | .mixPercent => clamped 0x00000000#32 0x42C80000#32       -- [0, 100]
          | .smoothed => if v = 0#32 then 0#32 else 1#32)
      ∧ (∀ p', p' ≠ p → paramWord t.params p' = paramWord s.params p')
      ∧ t = { s with params := t.params }

/-- 47_engine_control.md R1120: READ_PARAM answers the register and changes nothing else. -/
def Obligations.ReadParamAnswersTheRegister : Prop :=
  ∀ (p : Param) (s : State), s.faulted = false →
    ∃ t, exec (.readParam p) s = .next t
      ∧ Responded s t [match p with
          | .predelayMs => s.params.predelayMs
          | .inputLowpassHz => s.params.inputLowpassHz
          | .inputHighpassHz => s.params.inputHighpassHz
          | .diffusion => s.params.diffusion
          | .decay => s.params.decay
          | .driveDB => s.params.driveDB
          | .hfDampingHz => s.params.hfDampingHz
          | .lfDampingHz => s.params.lfDampingHz
          | .mixPercent => s.params.mixPercent
          | .smoothed => if s.params.smoothed then 1#32 else 0#32]
      ∧ t = { s with agents := t.agents }

/-- 47_engine_control.md R1110: SET_CONTROL's first step performs one of the ten writes, and the other nine,
each once, in some order, stay with the issuing agent. -/
def Obligations.SetControlBeginsTenWrites : Prop :=
  ∀ (a b c d e f g h i j : Word) (s : State), s.faulted = false →
    ∃ t p v more, exec (.setControl a b c d e f g h i j) s = .next t
      ∧ ((p, v) :: more).Perm
          [(.predelayMs, a), (.inputLowpassHz, b), (.inputHighpassHz, c), (.diffusion, d),
           (.decay, e), (.driveDB, f), (.hfDampingHz, g), (.lfDampingHz, h), (.mixPercent, i),
           (.smoothed, j)]
      ∧ t.params = setParamValue s.params p v
      ∧ t.agent s.cur = { s.agent s.cur with pending := more }
      ∧ (∀ w, w ≠ s.cur → t.agent w = s.agent w)
      ∧ t = { s with params := t.params, agents := t.agents, draws := t.draws }

/-- 47_engine_control.md R1110: with no other agent's command between them, the ten steps of a SET_CONTROL
leave every register at its clamped operand, in whatever order the writes were drawn, and change nothing
else. -/
def Obligations.SetControlWritesAllTen : Prop :=
  ∀ (s : State) (ag : Agent) (n : Nat) (a b c d e f g h i j : Word) (rest : List Word),
    s.agents = [(n, ag)] → s.faulted = false → ag.pending = [] →
    decode ag.queue = .ok (.setControl a b c d e f g h i j) rest →
    ∃ t, Host.Core.run Sys2Proof.core 10 s = .next t
      ∧ t.params =
          { predelayMs := paramClamp .predelayMs a, inputLowpassHz := paramClamp .inputLowpassHz b,
            inputHighpassHz := paramClamp .inputHighpassHz c, diffusion := paramClamp .diffusion d,
            decay := paramClamp .decay e, driveDB := paramClamp .driveDB f,
            hfDampingHz := paramClamp .hfDampingHz g, lfDampingHz := paramClamp .lfDampingHz h,
            mixPercent := paramClamp .mixPercent i, smoothed := decide (j ≠ 0#32) }
      ∧ t.agent n = { ag with queue := rest }
      ∧ t = { s with params := t.params, agents := t.agents, cur := n, draws := t.draws }

/-! ## Targets -/

/-- 47_engine_control.md R1130, R1131, R1133: the ten targets, each with the operations and the grouping of
its row. -/
def Obligations.TargetFormulas : Prop :=
  ∀ s : State, ∃ q, NaNSupply q ∧
    let d := s.params.diffusion
    let decE := fmin s.params.decay s.cfg.decayMax
    let beta := fun (i : Nat) (f : F32) => fnum Config.expF (q i)
      (fneg (fmin (fdiv (q (i + 1)) (fmul (q (i + 2)) 0x40C90FDB#32 f) s.cfg.fs) 0x40490FDA#32))
    (targets s).alpha1 = fmin d 0x3F7FFFFF#32
      ∧ (targets s).alpha2 =
          fadd (q 0) 0x3F200000#32 (fdiv (q 1) (fsub (q 2) d 0x3F000000#32) 0x40C00000#32)
      ∧ (targets s).alphaT =
          fclamp (fadd (q 3) decE 0x3E19999A#32) 0x3E19999A#32 0x3F000000#32
      ∧ (targets s).decay = decE
      ∧ (targets s).mix = fdiv (q 4) s.params.mixPercent 0x42C80000#32
      ∧ (targets s).betaILP = beta 5 s.params.inputLowpassHz
      ∧ (targets s).betaIHP = beta 8 s.params.inputHighpassHz
      ∧ (targets s).betaHF = beta 11 s.params.hfDampingHz
      ∧ (targets s).betaLF = beta 14 s.params.lfDampingHz
      ∧ (targets s).drive = s.params.driveDB

/-- 47_engine_control.md R1132: the ranges of T0 to T4 and T9 for every stored parameter value, with
DECAY_MAX at the value R10 gives. T5 to T8 rest on P_EXP_RANGE (R40) and are not stated. -/
def Obligations.TargetRanges : Prop :=
  ∀ s : State, s.params.InRange → s.cfg.decayMax = 0x3F59999A#32 →
    inRange 0#32 0x3F7FFFFF#32 (targets s).alpha1 = true
      ∧ inRange 0x3F0AAAAB#32 0x3F355555#32 (targets s).alpha2 = true
      ∧ inRange 0x3E19999A#32 0x3F000000#32 (targets s).alphaT = true
      ∧ inRange 0#32 0x3F59999A#32 (targets s).decay = true
      ∧ inRange 0#32 0x3F800000#32 (targets s).mix = true
      ∧ inRange 0#32 0x42700000#32 (targets s).drive = true

/-- 47_engine_control.md R1140: for every stored value the predelay length is the floor of the quotient,
never above MAXLEN_1 - 1, and MAXLEN_1 - 1 for an infinite one: the model's free length (log 16) is never
drawn. -/
def Obligations.PredelayLengthIsTheFloor : Prop :=
  ∀ s : State, s.cfg.wf = true → s.params.InRange → ∃ q, NaNSupply q ∧
    let p := fdiv (q 0) (fmul (q 1) s.params.predelayMs s.cfg.fs) 0x447A0000#32
    fIsNaN p = false ∧ flt p 0#32 = false
      ∧ predelayLen s =
          (if fIsInf p then s.cfg.maxLenOf .PD - 1
          else min (magUnits (fmag p) / 2 ^ 149) (s.cfg.maxLenOf .PD - 1))

/-! ## The engine -/

/-- 48_engine_process.md R1207: the coefficients are the targets, or, where DEZIP_ENABLED, each target
stepped once through its own dezipper, whose memory takes the value. -/
def Obligations.CoefficientsGlideTowardTargets : Prop :=
  ∀ s : State,
    (s.cfg.dezipEnabled = false → (coefficients s).1 = targets s ∧ (coefficients s).2.dezips = s.dezips)
      ∧ (s.cfg.dezipEnabled = true →
          ∀ e ∈ [(UnitId.DZ_A1, Coefs.alpha1), (.DZ_A2, Coefs.alpha2), (.DZ_AT, Coefs.alphaT),
              (.DZ_DEC, Coefs.decay), (.DZ_MIX, Coefs.mix), (.DZ_BILP, Coefs.betaILP),
              (.DZ_BIHP, Coefs.betaIHP), (.DZ_BHF, Coefs.betaHF), (.DZ_BLF, Coefs.betaLF),
              (.DZ_DRV, Coefs.drive)],
          ∃ q, NaNSupply q ∧
            let b := (s.dezip e.1).beta
            e.2 (coefficients s).1 = fflush s.cfg.tDn
                (fadd (q 0) (fmul (q 1) (fsub (q 2) 0x3F800000#32 b) (e.2 (targets s)))
                  (fmul (q 3) b (s.dezip e.1).last))
              ∧ (coefficients s).2.dezip e.1 = ⟨b, e.2 (coefficients s).1⟩)
      ∧ (coefficients s).2 = { s with
          dezips := (coefficients s).2.dezips, draws := (coefficients s).2.draws }

/-- 48_engine_process.md R1210: after an engine sample every field the write-back sets holds its coefficient
of that sample; the alphas of the extra allpasses follow only in smoothed mode. -/
def Obligations.EngineSampleWritesCoefficients : Prop :=
  ∀ (x : F32) (s : State),
    WrittenBack (engSample x s).2 s.params.smoothed (coefficients s).1 (predelayLen s)
      ∧ ∀ k ∈ extraAllpasses, (engSample x s).2.alpha k =
          (if s.params.smoothed then fclamp (coefficients s).1.alphaT f0 Config.alphaMax
          else s.alpha k)

/-- 48_engine_process.md R1201, R1220, R1225, R1230: an engine sample runs the write-back and then the stages
of the signal graph in order, each on the state the stage before left: the input path, branch A on the
previous sample's xfbB, branch B on its xfbA, the extra allpasses in smoothed mode only, and last the two
accumulators. The wet channels are made of this sample's taps. -/
def Obligations.EngineSampleFollowsTheGraph : Prop :=
  ∀ (x : F32) (s : State), ∃ q, NaNSupply q ∧
    let sm := s.params.smoothed
    let C := (coefficients s).1
    let pd := dlStep .PD x ((coefficients s).2.writeBack sm C (predelayLen s))
    let ilp := opStep .ILP pd.1 pd.2
    let ihp := opStep .IHP ilp.1 ilp.2
    let ap1 := apStep .AP1 ihp.1 ihp.2
    let ap2 := apStep .AP2 ap1.1 ap1.2
    let ap3 := apStep .AP3 ap2.1 ap2.2
    let ap4 := apStep .AP4 ap3.1 ap3.2
    let u := ap4.1
    let mapA := apStep .MAP_A (fadd (q 0) u s.xfbB) ap4.2.tick
    let dl1A := dlStep .DL1_A mapA.1 mapA.2
    let satA := satStep .SAT_A dl1A.1 dl1A.2
    let dlpA := opStep .DLP_A satA.1 satA.2
    let dhpA := opStep .DHP_A dlpA.1 dlpA.2
    let tapA := apStep .TAP_A dhpA.1 dhpA.2
    let dl2A := dlStep .DL2_A (fmul (q 1) tapA.1 C.decay) tapA.2.tick
    let x1A := apStep .XAP1_A dl2A.1 dl2A.2
    let x2A := apStep .XAP2_A x1A.1 x1A.2
    let tailA := if sm then x2A else dl2A
    let nxA := fmul (q 2) tailA.1 C.decay
    let mapB := apStep .MAP_B (fadd (q 3) u s.xfbA) tailA.2.tick.tick
    let dl1B := dlStep .DL1_B mapB.1 mapB.2
    let satB := satStep .SAT_B dl1B.1 dl1B.2
    let dlpB := opStep .DLP_B satB.1 satB.2
    let dhpB := opStep .DHP_B dlpB.1 dlpB.2
    let tapB := apStep .TAP_B dhpB.1 dhpB.2
    let dl2B := dlStep .DL2_B (fmul (q 4) tapB.1 C.decay) tapB.2.tick
    let x1B := apStep .XAP1_B dl2B.1 dl2B.2
    let x2B := apStep .XAP2_B x1B.1 x1B.2
    let tailB := if sm then x2B else dl2B
    let nxB := fmul (q 5) tailB.1 C.decay
    let r := engSample x s
    r.2 = { tailB.2 with xfbA := nxA, xfbB := nxB, draws := r.2.draws }
      ∧ r.1.mix = C.mix
      ∧ ∃ w : State, w.cfg = s.cfg
        ∧ (r.1.wetL, r.1.wetR) = wetOut
            ⟨dl1A.1, tapA.1, dl2A.1, if sm then some (x1A.1, x2A.1) else none, nxA⟩
            ⟨dl1B.1, tapB.1, dl2B.1, if sm then some (x1B.1, x2B.1) else none, nxB⟩ w

/-- 48_engine_process.md R1240: whatever four lists WET_TAPS holds, each wet channel is the sum of its list's
taps with alternating signs, three terms at 0.7 or in smoothed mode five at 0.6; and the lists of the default
table. -/
def Obligations.DefaultWetTaps : Prop :=
  (∀ (a b : BranchOut) (s : State), ∃ q, NaNSupply q ∧
    let W := s.cfg.wetTaps
    let off := fun (t : OffTap) => match t with
      | .t1_A => a.t1 | .t2_A => a.t2 | .t3_A => a.t3
      | .t1_B => b.t1 | .t2_B => b.t2 | .t3_B => b.t3
    (a.extra = none → b.extra = none →
      (wetOut a b s).1 = fmul (q 0) 0x3F333333#32
          (fadd (q 2) (fsub (q 1) (off W.offL[0]) (off W.offL[1])) (off W.offL[2]))
        ∧ (wetOut a b s).2 = fmul (q 5) 0x3F333333#32
          (fadd (q 7) (fsub (q 6) (off W.offR[0]) (off W.offR[1])) (off W.offR[2])))
    ∧ ∀ t4a t5a t4b t5b, a.extra = some (t4a, t5a) → b.extra = some (t4b, t5b) →
      let on := fun (t : OnTap) => match t with
        | .off u => off u | .t4_A => t4a | .t5_A => t5a | .t4_B => t4b | .t5_B => t5b
      (wetOut a b s).1 = fmul (q 0) 0x3F19999A#32
          (fadd (q 4) (fsub (q 3) (fadd (q 2) (fsub (q 1) (on W.onL[0]) (on W.onL[1])) (on W.onL[2]))
            (on W.onL[3])) (on W.onL[4]))
        ∧ (wetOut a b s).2 = fmul (q 5) 0x3F19999A#32
          (fadd (q 9) (fsub (q 8) (fadd (q 7) (fsub (q 6) (on W.onR[0]) (on W.onR[1])) (on W.onR[2]))
            (on W.onR[3])) (on W.onR[4])))
  ∧ WetTaps.default.offL.toList = [.t3_A, .t1_B, .t2_B]
  ∧ WetTaps.default.offR.toList = [.t3_B, .t1_A, .t2_A]
  ∧ WetTaps.default.onL.toList = [.t5_A, .t4_A, .off .t3_A, .off .t1_B, .off .t2_B]
  ∧ WetTaps.default.onR.toList = [.t5_B, .t4_B, .off .t3_B, .off .t1_A, .off .t2_A]
  ∧ ∀ o : OpenParams, o.toCfg.wetTaps = WetTaps.default

/-- 48_engine_process.md R1250: PROCESS_MONO completes whenever the engine is ready. It answers the blend of
its input with the left wet channel of one engine sample, and changes only what an engine sample changes. -/
def Obligations.ProcessMonoBlendsWetAndDry : Prop :=
  ∀ (x : Word) (s : State), s.Inv → s.Running →
    ∃ t q, exec (.processMono x) s = .next t ∧ NaNSupply q
      ∧ Responded s t [fadd (q 0) (fmul (q 1) x (fsub (q 2) 0x3F800000#32 (engSample x s).1.mix))
          (fmul (q 3) (engSample x s).1.wetL (engSample x s).1.mix)]
      ∧ t = { (engSample x s).2 with agents := t.agents, draws := t.draws }
      ∧ EngineFrame s t

/-- 48_engine_process.md R1260: PROCESS_STEREO feeds the half-sum to one engine sample and answers the left
blend, then the right, each with its own dry channel. -/
def Obligations.ProcessStereoBlendsBothChannels : Prop :=
  ∀ (xL xR : Word) (s : State), s.Inv → s.Running →
    ∃ t q r, exec (.processStereo xL xR) s = .next t ∧ NaNSupply q
      ∧ r = engSample (fmul (q 8) (fadd (q 9) xL xR) 0x3F000000#32) s.tick
      ∧ Responded s t
          [fadd (q 0) (fmul (q 1) xL (fsub (q 2) 0x3F800000#32 r.1.mix)) (fmul (q 3) r.1.wetL r.1.mix),
           fadd (q 4) (fmul (q 5) xR (fsub (q 6) 0x3F800000#32 r.1.mix)) (fmul (q 7) r.1.wetR r.1.mix)]
      ∧ t = { r.2 with agents := t.agents, draws := t.draws }
      ∧ EngineFrame s t

/-- 70_reset_and_hazards.md R1730, first row: a unit-level write to a field that the write-back sets is lost
at the next engine sample: the processing commands do exactly as if it had not been made. -/
def Obligations.EngineOverwritesUnitWrites : Prop :=
  ∀ (i : Instr) (s : State), s.ready = true →
    ((∃ x, i = .processMono x) ∨ ∃ xL xR, i = .processStereo xL xR) →
    (∀ n, exec i (s.setDelay .PD { s.delay .PD with n := n }) = exec i s)
      ∧ (∀ k a, admits apKinds k = true → (k ∉ extraAllpasses ∨ s.params.smoothed = true) →
          exec i (s.setAlpha k a) = exec i s)
      ∧ (∀ k d, admits apmKinds k = true →
          exec i (s.setModulation k { s.modulation k with depth := d }) = exec i s)
      ∧ (∀ k b, admits opKinds k = true →
          exec i (s.setPole k { s.pole k with beta := b }) = exec i s)
      ∧ (∀ k d, admits satKinds k = true → exec i (s.setDrive k d) = exec i s)

/-- 48_engine_process.md R1270, R1271 (which the spec derives from R1250 and R1260), 00_scope.md R22: at mix 0
the blend is the dry input for every finite wet value, and at mix 1 it is the wet value for every finite
input, zeros keeping only their value and NaNs only being NaNs. -/
def Obligations.BlendAtTheEnds : Prop :=
  ∀ (q : Nat → F32) (x w : F32), NaNSupply q →
    (fIsNaN x = false → fmag x ≠ 0 → fIsFinite w = true → blend q x w 0x00000000#32 = x)
      ∧ (fmag x = 0 → fIsFinite w = true → fmag (blend q x w 0x00000000#32) = 0)
      ∧ (x = 0#32 → fIsFinite w = true → blend q x w 0x00000000#32 = 0#32)
      ∧ (fIsNaN x = true ∨ fIsFinite w = false → fIsNaN (blend q x w 0x00000000#32) = true)
      ∧ (fIsFinite x = true → fIsNaN w = false → fmag w ≠ 0 → blend q x w 0x3F800000#32 = w)
      ∧ (fIsFinite x = true → fmag w = 0 → fmag (blend q x w 0x3F800000#32) = 0)
      ∧ (fIsFinite x = false ∨ fIsNaN w = true → fIsNaN (blend q x w 0x3F800000#32) = true)

/-! ## The delay line -/

/-- 41_delay_line.md R500, R501: DL_PROCESS answers the cell n behind the write cursor as it was before the
write, or its input where n is 0; it writes its input at the cursor and moves the cursor on. Nothing else
changes. -/
def Obligations.DlProcessReadsThenWrites : Prop :=
  ∀ (k : UnitId) (x : Word) (s : State), s.Inv → s.Running → admits dlKinds k = true →
    let u := s.delay k
    ∃ t, exec (.dlProcess k x) s = .next t
      ∧ Responded s t [if u.n = 0 then x
          else memReadWord s.arena.mem (u.base + 4 * ((u.w + u.L - u.n) % u.L))]
      ∧ StoredWord s t (u.base + 4 * u.w) x
      ∧ OnlyDelay s t k { u with w := (u.w + 1) % u.L }
      ∧ t = { s with
          arena := { s.arena with mem := t.arena.mem }, delays := t.delays, agents := t.agents }

/-- 41_delay_line.md R510, 42_allpass.md R620: DL_SET_DELAY and AP_SET_DELAY set n to the operand or to
L - 1, whichever is less, and change nothing else. -/
def Obligations.SetDelayClampsToCapacity : Prop :=
  ∀ (k : UnitId) (m : Word) (s : State) (i : Instr), s.Running →
    (i = .dlSetDelay k m ∧ admits dlKinds k = true
      ∨ i = .apSetDelay k m ∧ admits apKinds k = true) →
    ∃ t, exec i s = .next t
      ∧ OnlyDelay s t k { s.delay k with n := min m.toNat ((s.delay k).L - 1) }
      ∧ t = { s with delays := t.delays }

/-- 41_delay_line.md R520, 42_allpass.md R640: DL_RESET and AP_RESET make every cell of the unit's buffer
+0.0 and its write cursor 0. Every byte outside the buffer, its n, and everything else stay. -/
def Obligations.ResetClearsOneBuffer : Prop :=
  ∀ (k : UnitId) (s : State) (i : Instr), s.Inv → s.Running →
    (i = .dlReset k ∧ admits dlKinds k = true ∨ i = .apReset k ∧ admits apKinds k = true) →
    ∃ t, exec i s = .next t
      ∧ ZeroedBuffers s t [k]
      ∧ OnlyDelay s t k { s.delay k with w := 0 }
      ∧ t = { s with arena := { s.arena with mem := t.arena.mem }, delays := t.delays }

/-- 41_delay_line.md R530 (which the spec derives from R500): a delay line whose buffer is all +0.0 and whose n
is in [1, L - 1], fed 1.0 and then +0.0, answers 1.0 at call n and +0.0 at every other call. -/
def Obligations.PureDelayImpulse : Prop :=
  ∀ (k : UnitId) (s : State) (m : Nat), admits dlKinds k = true →
    1 ≤ (s.delay k).n → (s.delay k).n + 1 ≤ (s.delay k).L → (s.delay k).w < (s.delay k).L →
    (∀ c, c < (s.delay k).L → s.bufRead k c = 0x00000000#32) →
    (dlRun k (0x3F800000#32 :: List.replicate m 0x00000000#32) s).1 =
      (List.range (m + 1)).map (fun t => if t = (s.delay k).n then 0x3F800000#32 else 0x00000000#32)

/-- 41_delay_line.md R531 (which the spec derives from R500): with n = 0 each call returns its own input on the
same call. -/
def Obligations.BypassReturnsTheInput : Prop :=
  ∀ (k : UnitId) (xs : List F32) (s : State), (s.delay k).n = 0 → (dlRun k xs s).1 = xs

/-! ## The allpass -/

/-- 42_allpass.md R600, R601: AP_PROCESS on an unmodulated allpass. The value read n behind the cursor gives
the feedback input, which is stored unflushed, and the flushed output. -/
def Obligations.ApProcessUnmodulated : Prop :=
  ∀ (k : UnitId) (x : Word) (s : State), s.Inv → s.Running → unitKind k = .AP →
    let u := s.delay k
    let al := s.alpha k
    let d := memReadWord s.arena.mem (u.base + 4 * ((u.w + u.L - u.n) % u.L))
    ∃ t q, exec (.apProcess k x) s = .next t ∧ NaNSupply q ∧
      let v := fsub (q 0) x (fmul (q 1) d al)
      Responded s t [fflush s.cfg.tDn (fadd (q 2) (fmul (q 3) v al) d)]
      ∧ StoredWord s t (u.base + 4 * u.w) v
      ∧ OnlyDelay s t k { u with w := (u.w + 1) % u.L }
      ∧ t = { s with
          arena := { s.arena with mem := t.arena.mem }, delays := t.delays, agents := t.agents,
          draws := t.draws }

/-- 42_allpass.md R600, R601: AP_PROCESS on a modulated allpass. Its oscillator is read and then stepped, the
read index is displaced by the product of depth and sample, rounded to the nearest integer with ties away
from zero (R24) and 0 where it is not finite, and wrapped into the buffer; the rest is as for an unmodulated
one. -/
def Obligations.ApProcessModulated : Prop :=
  ∀ (k j : UnitId) (x : Word) (s : State), s.Inv → s.Running →
    (k = .MAP_A ∧ j = .LFO_A ∨ k = .MAP_B ∧ j = .LFO_B) →
    let u := s.delay k
    let al := s.alpha k
    let o := s.osc j
    ∃ t q off, exec (.apProcess k x) s = .next t ∧ NaNSupply q ∧
      let p := fmul (q 4) (s.modulation k).depth (o.table.getD o.idx 0#32)
      let r := (((u.w : Int) - (u.n : Int) + off) % (u.L : Int)).toNat
      let d := memReadWord s.arena.mem (u.base + 4 * r)
      let v := fsub (q 0) x (fmul (q 1) d al)
      (fIsFinite p = true → NearestAway (fUnits p) (2 ^ 149) off)
      ∧ (fIsFinite p = false → off = 0)
      ∧ Responded s t [fflush s.cfg.tDn (fadd (q 2) (fmul (q 3) v al) d)]
      ∧ StoredWord s t (u.base + 4 * u.w) v
      ∧ OnlyDelay s t k { u with w := (u.w + 1) % u.L }
      ∧ t.osc j = { o with idx := (o.idx + 1) % o.N }
      ∧ (∀ i, i ≠ j → t.osc i = s.osc i)
      ∧ t = { s with
          arena := { s.arena with mem := t.arena.mem }, delays := t.delays, oscs := t.oscs,
          agents := t.agents, draws := t.draws }

/-- 42_allpass.md R610, R630: AP_SET_COEF clamps into [0, ALPHA_MAX] and AP_SET_DEPTH into [0, FLT_MAX], a
NaN to 0; each writes its one field of its one unit. -/
def Obligations.AllpassSettersClamp : Prop :=
  (∀ (k : UnitId) (a : Word) (s : State), s.Running → admits apKinds k = true →
    ∃ t, exec (.apSetCoef k a) s = .next t
      ∧ t.alpha k = (if fIsNaN a || flt a 0#32 then 0#32
          else if flt 0x3F7FFFFF#32 a then 0x3F7FFFFF#32 else a)
      ∧ (∀ j, j ≠ k → t.alpha j = s.alpha j)
      ∧ t = { s with alphas := t.alphas })
  ∧ ∀ (k : UnitId) (dp : Word) (s : State), s.Running → admits apmKinds k = true →
    ∃ t, exec (.apSetDepth k dp) s = .next t
      ∧ t.modulation k = { s.modulation k with
          depth := if fIsNaN dp || flt dp 0#32 then 0#32 else if flt 0x7F7FFFFF#32 dp then 0x7F7FFFFF#32 else dp }
      ∧ (∀ j, j ≠ k → t.modulation j = s.modulation j)
      ∧ t = { s with mods := t.mods }

/-! ## The oscillator -/

/-- 43_lfo.md R700, R701, R720: LFO_STEP answers the sample at the phase and moves the phase on by one;
LFO_RESET sets it to 0. The table stays and nothing else changes. -/
def Obligations.LfoStepAndReset : Prop :=
  ∀ (k : UnitId) (s : State), s.Inv → s.Running → admits lfoKinds k = true →
    (∃ t v, exec (.lfoStep k) s = .next t
      ∧ (s.osc k).table[(s.osc k).idx]? = some v
      ∧ Responded s t [v]
      ∧ t.osc k = { s.osc k with idx := ((s.osc k).idx + 1) % (s.osc k).N }
      ∧ (∀ j, j ≠ k → t.osc j = s.osc j)
      ∧ t = { s with oscs := t.oscs, agents := t.agents })
    ∧ ∃ t, exec (.lfoReset k) s = .next t
      ∧ t.osc k = { s.osc k with idx := 0 }
      ∧ (∀ j, j ≠ k → t.osc j = s.osc j)
      ∧ t = { s with oscs := t.oscs }

/-- 43_lfo.md R730: call t of an oscillator returns table[(idx0 + t) mod N], and after N calls the phase is
back where it was. -/
def Obligations.LfoIsPeriodic : Prop :=
  ∀ (k : UnitId) (s : State) (n : Nat), admits lfoKinds k = true →
    (s.osc k).table.length = (s.osc k).N → (s.osc k).idx < (s.osc k).N →
    (lfoRun k n s).1 =
        (List.range n).map (fun t =>
          (s.osc k).table.getD (((s.osc k).idx + t) % (s.osc k).N) 0x00000000#32)
      ∧ (lfoRun k (s.osc k).N s).2.osc k = s.osc k

/-! ## The one-pole filters -/

/-- 44_one_pole.md R800, R801: OP_PROCESS. A lowpass answers the flushed sum and keeps it as its state; a
highpass keeps the unflushed midpoint and answers the flushed, normalised difference. -/
def Obligations.OpProcessFilters : Prop :=
  ∀ (k : UnitId) (x : Word) (s : State), s.Running →
    let b := (s.pole k).beta
    (unitKind k = .OPL → ∃ t q, exec (.opProcess k x) s = .next t ∧ NaNSupply q ∧
      let y := fflush s.cfg.tDn
        (fadd (q 0) (fmul (q 1) (fsub (q 2) 0x3F800000#32 b) x) (fmul (q 3) b (s.pole k).s))
      Responded s t [y]
      ∧ t.pole k = ⟨b, y⟩
      ∧ (∀ j, j ≠ k → t.pole j = s.pole j)
      ∧ t = { s with poles := t.poles, agents := t.agents, draws := t.draws })
    ∧ (unitKind k = .OPH → ∃ t q, exec (.opProcess k x) s = .next t ∧ NaNSupply q ∧
      let mid := fadd (q 0) x (fmul (q 1) b (s.pole k).s)
      Responded s t [fflush s.cfg.tDn (fdiv (q 2) (fmul (q 3) b (fsub (q 4) mid (s.pole k).s)) b)]
      ∧ t.pole k = ⟨b, mid⟩
      ∧ (∀ j, j ≠ k → t.pole j = s.pole j)
      ∧ t = { s with poles := t.poles, agents := t.agents, draws := t.draws })

/-- 44_one_pole.md R810, R820: OP_SET_CUTOFF sets beta from the cutoff clamped into [0, WC_MAX], a NaN to 0,
and keeps s; OP_RESET makes s +0.0 and keeps beta. -/
def Obligations.OpSetCutoffAndReset : Prop :=
  ∀ (k : UnitId) (s : State), s.Running → admits opKinds k = true →
    (∀ wc : Word, ∃ t q, exec (.opSetCutoff k wc) s = .next t ∧ NaNSupply q
      ∧ t.pole k = { s.pole k with
          beta := fnum Config.expF (q 0) (fneg (if fIsNaN wc || flt wc 0#32 then 0#32 else if flt 0x40490FDA#32 wc then 0x40490FDA#32 else wc)) }
      ∧ (∀ j, j ≠ k → t.pole j = s.pole j)
      ∧ t = { s with poles := t.poles, draws := t.draws })
    ∧ ∃ t, exec (.opReset k) s = .next t
      ∧ t.pole k = { s.pole k with s := 0x00000000#32 }
      ∧ (∀ j, j ≠ k → t.pole j = s.pole j)
      ∧ t = { s with poles := t.poles }

/-! ## The saturators -/

/-- 45_saturator.md R900, R901, R910: SAT_PROCESS answers the curve of its unit's kind, in the branch its
drive selects, and writes no state; SAT_SET_DRIVE stores its operand unclamped. -/
def Obligations.SatProcessAndSetDrive : Prop :=
  ∀ (k : UnitId) (F : F32 → F32) (a c : F32) (s : State), s.Running →
    (k = .SAT_A ∧ F = Config.atanF ∧ a = 0x3F666666#32 ∧ c = 0x3DCCCCCD#32
      ∨ k = .SAT_B ∧ F = Config.tanhF ∧ a = 0x3F333333#32 ∧ c = 0x3E99999A#32) →
    (∀ x : Word, ∃ t q, exec (.satProcess k x) s = .next t ∧ NaNSupply q ∧
      let g := fnum Config.pow10F (q 0) (fdiv (q 1) (s.drive k) 0x41A00000#32)
      let Fg := fnum F (q 2) g
      Responded s t [fdiv (q 3) (fnum F (q 4) (fmul (q 5) x g))
          (if flt g 0x3F800000#32 then Fg else fmul (q 6) (fadd (q 7) a (fmul (q 8) c g)) Fg)]
      ∧ t = { s with agents := t.agents, draws := t.draws })
    ∧ ∀ dB : Word, ∃ t, exec (.satSetDrive k dB) s = .next t
      ∧ t.drive k = dB
      ∧ (∀ j, j ≠ k → t.drive j = s.drive j)
      ∧ t = { s with drives := t.drives }

/-! ## The dezippers -/

/-- 46_dezipper.md R1000, R1001: DZ_SMOOTH answers the flushed sum and keeps it as its memory. -/
def Obligations.DzSmoothGlides : Prop :=
  ∀ (k : UnitId) (x : Word) (s : State), s.Running → admits dzKinds k = true →
    let b := (s.dezip k).beta
    ∃ t q, exec (.dzSmooth k x) s = .next t ∧ NaNSupply q ∧
      let y := fflush s.cfg.tDn
        (fadd (q 0) (fmul (q 1) (fsub (q 2) 0x3F800000#32 b) x) (fmul (q 3) b (s.dezip k).last))
      Responded s t [y]
      ∧ t.dezip k = ⟨b, y⟩
      ∧ (∀ j, j ≠ k → t.dezip j = s.dezip j)
      ∧ t = { s with dezips := t.dezips, agents := t.agents, draws := t.draws }

/-- 46_dezipper.md R1010, R1020: DZ_SET_FACTOR clamps beta into [0, ALPHA_MAX], a NaN to 0, and keeps last;
DZ_PRESET stores last as it is and keeps beta. -/
def Obligations.DzSetFactorAndPreset : Prop :=
  ∀ (k : UnitId) (v : Word) (s : State), s.Running → admits dzKinds k = true →
    (∃ t, exec (.dzSetFactor k v) s = .next t
      ∧ t.dezip k = { s.dezip k with
          beta := if fIsNaN v || flt v 0#32 then 0#32 else if flt 0x3F7FFFFF#32 v then 0x3F7FFFFF#32 else v }
      ∧ (∀ j, j ≠ k → t.dezip j = s.dezip j)
      ∧ t = { s with dezips := t.dezips })
    ∧ ∃ t, exec (.dzPreset k v) s = .next t
      ∧ t.dezip k = { s.dezip k with last := v }
      ∧ (∀ j, j ≠ k → t.dezip j = s.dezip j)
      ∧ t = { s with dezips := t.dezips }

/-! ## Numerics -/

/-- 00_scope.md R20: the rounding of a positive exact value `num / den` (in units of 2^-149) is to nearest,
ties to even. A finite result is at least as near as every other finite value, with its last bit 0 where
another is equally near; the result is an infinity exactly from half a unit above the largest finite
value. -/
def Obligations.RoundingIsNearestEven : Prop :=
  ∀ (num den : Nat), 0 < den →
    (roundMag num den = infMag ↔ (2 ^ 25 - 1) * 2 ^ 252 * den ≤ num)
      ∧ (roundMag num den ≠ infMag →
          roundMag num den < infMag
            ∧ ∀ m, m < infMag → m ≠ roundMag num den →
                ((magUnits (roundMag num den) * den : Int) - num).natAbs
                    ≤ ((magUnits m * den : Int) - num).natAbs
                  ∧ (((magUnits (roundMag num den) * den : Int) - num).natAbs
                      = ((magUnits m * den : Int) - num).natAbs → roundMag num den % 2 = 0))

/-- 00_scope.md R20, R22: the sum, product and quotient of finite operands are the exact result rounded once,
with the IEEE sign; a difference is the sum with the negated operand. An infinite operand gives the IEEE
infinity or zero, a nonzero value over zero an infinity, and a NaN operand, opposite infinities in a sum, zero
times an infinity, 0/0 and an infinity over an infinity each give the NaN `q`. -/
def Obligations.ArithmeticRoundsExactResults : Prop :=
  ∀ (q a b : F32),
    (fIsFinite a = true → fIsFinite b = true →
      (fUnits a + fUnits b ≠ 0 →
          fmag (fadd q a b) = roundMag (fUnits a + fUnits b).natAbs 1
            ∧ fsign (fadd q a b) = decide (fUnits a + fUnits b < 0))
        ∧ (fUnits a + fUnits b = 0 →
            fmag (fadd q a b) = 0 ∧ fsign (fadd q a b) = (fsign a && fsign b))
        ∧ (fmag (fmul q a b) = roundMag ((fUnits a).natAbs * (fUnits b).natAbs) (2 ^ 149)
            ∧ fsign (fmul q a b) = (fsign a != fsign b))
        ∧ (fmag b ≠ 0 →
            fmag (fdiv q a b) = roundMag ((fUnits a).natAbs * 2 ^ 149) (fUnits b).natAbs
              ∧ fsign (fdiv q a b) = (fsign a != fsign b))
        ∧ (fmag b = 0 → fmag a ≠ 0 →
            fmag (fdiv q a b) = 0x7F800000 ∧ fsign (fdiv q a b) = (fsign a != fsign b))
        ∧ (fmag b = 0 → fmag a = 0 → fdiv q a b = q))
      ∧ (fIsNaN a = true ∨ fIsNaN b = true →
          fadd q a b = q ∧ fsub q a b = q ∧ fmul q a b = q ∧ fdiv q a b = q)
      ∧ (fmag a = 0x7F800000 → fIsFinite b = true →
          fadd q a b = a ∧ fadd q b a = a
            ∧ (fmag b ≠ 0 → ∀ r, r = fmul q a b ∨ r = fmul q b a →
                fmag r = 0x7F800000 ∧ fsign r = (fsign a != fsign b))
            ∧ (fmag b = 0 → fmul q a b = q ∧ fmul q b a = q)
            ∧ (fmag (fdiv q a b) = 0x7F800000 ∧ fsign (fdiv q a b) = (fsign a != fsign b))
            ∧ (fmag (fdiv q b a) = 0 ∧ fsign (fdiv q b a) = (fsign b != fsign a)))
      ∧ (fmag a = 0x7F800000 → fmag b = 0x7F800000 →
          (fsign a = fsign b → fadd q a b = a) ∧ (fsign a ≠ fsign b → fadd q a b = q)
            ∧ (fmag (fmul q a b) = 0x7F800000 ∧ fsign (fmul q a b) = (fsign a != fsign b))
            ∧ fdiv q a b = q)
      ∧ (fsub q a b = fadd q a (b ^^^ 0x80000000#32))

/-- 00_scope.md R21: the ordered comparisons are those of the exact values of finite operands, an infinity lies
beyond every finite value on its side and equals itself, and a comparison with a NaN is false. The least of
two values and the clamp into a range are built on these comparisons. -/
def Obligations.ComparisonsFollowExactValues : Prop :=
  ∀ a b : F32,
    (fIsFinite a = true → fIsFinite b = true →
        (flt a b = true ↔ fUnits a < fUnits b) ∧ (fle a b = true ↔ fUnits a ≤ fUnits b))
      ∧ (fIsNaN a = true ∨ fIsNaN b = true → flt a b = false ∧ fle a b = false)
      ∧ (fIsNaN a = false →
          (flt a 0x7F800000#32 = true ↔ a ≠ 0x7F800000#32) ∧ fle a 0x7F800000#32 = true
            ∧ flt 0x7F800000#32 a = false ∧ (fle 0x7F800000#32 a = true ↔ a = 0x7F800000#32)
            ∧ (flt 0xFF800000#32 a = true ↔ a ≠ 0xFF800000#32) ∧ fle 0xFF800000#32 a = true
            ∧ flt a 0xFF800000#32 = false ∧ (fle a 0xFF800000#32 = true ↔ a = 0xFF800000#32))
      ∧ fmin a b = (if fle a b then a else b)
      ∧ ∀ v, fclamp v a b = (if flt v a || fIsNaN v then a else if flt b v then b else v)

/-- 00_scope.md R23: a magnitude below T_DN becomes +0.0, negative zero included; everything else, a NaN
included, is returned unchanged. -/
def Obligations.FlushForcesSmallToZero : Prop :=
  ∀ (c : Cfg) (y : F32), c.wf = true →
    (flt (y &&& 0x7FFFFFFF#32) c.tDn = true → fflush c.tDn y = 0x00000000#32)
      ∧ (flt (y &&& 0x7FFFFFFF#32) c.tDn = false → fflush c.tDn y = y)
      ∧ (fIsNaN y = true → fflush c.tDn y = y)
      ∧ fflush c.tDn 0x80000000#32 = 0x00000000#32
end

