-- ==== Sys2Proof/Laws/Numerics.lean ====
section
/-! SUPPORT. What rounding half away from zero gives (00_scope.md R24), said once: the nearest integer, the
one further from zero where two are equally near, and no other integer is that. -/

namespace Sys2Proof.Machine

/-- Half a unit below the rounded quotient to just under half a unit above it. -/
theorem ratRoundHalfAway_bounds (num den : Nat) (h : 0 < den) :
    2 * (ratRoundHalfAway num den * den) ≤ 2 * num + den
      ∧ 2 * num < 2 * (ratRoundHalfAway num den * den) + den := by
  have e := Nat.div_add_mod (2 * num + den) (2 * den)
  have l := Nat.mod_lt (2 * num + den) (show 0 < 2 * den by omega)
  have c : 2 * den * ratRoundHalfAway num den = 2 * (ratRoundHalfAway num den * den) := by ring
  have e' : 2 * den * ratRoundHalfAway num den + (2 * num + den) % (2 * den) = 2 * num + den := e
  omega

/-- At most one integer is nearest with ties away from zero. -/
theorem nearestAway_unique {num den n m : Int} (hd : 0 < den) (hn : NearestAway num den n)
    (hm : NearestAway num den m) : n = m := by
  obtain ⟨h1, h2⟩ := hn m
  obtain ⟨h3, h4⟩ := hm n
  have e : (n * den - num).natAbs = (m * den - num).natAbs := by omega
  have ha : n.natAbs = m.natAbs := le_antisymm (h4 e.symm) (h2 e)
  rcases Int.natAbs_eq_natAbs_iff.mp ha with h | h
  · exact h
  · -- opposite integers equally near: then `num` is 0, and 0 itself is nearer
    subst h
    have e2 : (-m * den - num).natAbs = (m * den - num).natAbs := e
    have hz := (hm 0).1
    rw [Int.neg_mul] at e2
    have hm0 : m * den = 0 := by omega
    rcases Int.mul_eq_zero.mp hm0 with h | h <;> omega

/-- The rounded quotient of natural numbers is the nearest integer, ties away from zero. -/
theorem nearestAway_ratRoundHalfAway (num den : Nat) (h : 0 < den) :
    NearestAway num den (ratRoundHalfAway num den) := by
  obtain ⟨h1, h2⟩ := ratRoundHalfAway_bounds num den h
  intro m
  generalize ratRoundHalfAway num den = n at *
  have h1' : 2 * ((n : Int) * den) ≤ 2 * num + den := by exact_mod_cast h1
  have h2' : 2 * (num : Int) < 2 * ((n : Int) * den) + den := by exact_mod_cast h2
  rcases lt_trichotomy m (n : Int) with hm | rfl | hm
  · have hk : m * den + den ≤ (n : Int) * den := by nlinarith
    have hneg : m < 0 → (m.natAbs : Int) * den = -(m * den) := fun hm0 => by
      rw [Int.ofNat_natAbs_of_nonpos hm0.le]; ring
    refine ⟨by omega, fun e => ?_⟩
    rcases Int.lt_or_le m 0 with hm0 | hm0
    · have hn0 : 0 ≤ (n : Int) * den := by positivity
      have : m * den ≤ -den := by nlinarith
      -- a tie with a negative integer would need `num ≤ 0`, so `n = 0` and the tie fails
      exfalso; omega
    · omega
  · exact ⟨le_refl _, fun _ => le_refl _⟩
  · have hk : (n : Int) * den + den ≤ m * den := by nlinarith
    exact ⟨by omega, fun e => by exfalso; omega⟩

/-- The same on the other side of zero. -/
theorem nearestAway_neg {num den n : Int} (h : NearestAway num den n) : NearestAway (-num) den (-n) := by
  intro m
  obtain ⟨h1, h2⟩ := h (-m)
  rw [Int.neg_mul] at h1 h2
  rw [Int.neg_mul]
  have e1 : (-(n * den) - -num).natAbs = (n * den - num).natAbs := by omega
  have e2 : (m * den - -num).natAbs = (-(m * den) - num).natAbs := by omega
  rw [e1, e2]
  exact ⟨h1, fun e => by have := h2 e; omega⟩

/-- `roundHalfAway` of a finite value: the value is `fUnits p / 2^149`. -/
theorem nearestAway_roundHalfAway (p : F32) : NearestAway (fUnits p) (2 ^ 149) (roundHalfAway p) := by
  have h := nearestAway_ratRoundHalfAway (magUnits (fmag p)) (2 ^ 149) (by positivity)
  push_cast at h
  unfold roundHalfAway fUnits
  split
  · exact nearestAway_neg h
  · exact h

/-- A finite value above zero is a positive number of units, and its magnitude says how many. -/
theorem fUnits_of_positiveFinite {a : F32} (h : positiveFinite a = true) :
    fUnits a = magUnits (fmag a) ∧ 0 < magUnits (fmag a) := by
  have hk : 0 < fkey a := by
    simp only [positiveFinite, flt, Bool.and_eq_true, decide_eq_true_eq] at h
    exact h.2.2
  unfold fkey at hk
  cases hs : fsign a with
  | true => rw [hs, if_pos rfl] at hk; omega
  | false =>
    rw [hs, if_neg Bool.false_ne_true] at hk
    refine ⟨by rw [fUnits, hs, if_neg Bool.false_ne_true], ?_⟩
    unfold magUnits
    split
    · omega
    · positivity

/-- `scaledLen` is `nk[k]` of R1310, and nothing else is. -/
theorem scaledLength_iff {c : Cfg} (hc : c.wf = true) (k : UnitId) (n : Nat) :
    ScaledLength c k n ↔ n = scaledLen c k := by
  simp only [Cfg.wf, Bool.and_eq_true] at hc
  have h1 := fUnits_of_positiveFinite hc.1.1.1.1.1.1.1.1.1.1.1.1
  have h2 := fUnits_of_positiveFinite hc.1.1.1.1.1.1.1.1.1.1.1.2
  have h := nearestAway_ratRoundHalfAway (c.refLenOf k * magUnits (fmag c.fs)) _ h2.2
  unfold ScaledLength
  rw [h1.1, h2.1]
  push_cast at h
  exact ⟨fun g => by exact_mod_cast nearestAway_unique (by exact_mod_cast h2.2) g h, fun g => g ▸ h⟩

/-- `tableLen` is `N_j` of R710 for a positive rate, and nothing else is. -/
theorem tableLength_iff {c : Cfg} (hc : c.wf = true) {rho : F32} (hr : positiveFinite rho = true) (n : Nat) :
    TableLength c rho n ↔ n = tableLen c rho := by
  simp only [Cfg.wf, Bool.and_eq_true] at hc
  have h1 := fUnits_of_positiveFinite hc.1.1.1.1.1.1.1.1.1.1.1.1
  have h2 := fUnits_of_positiveFinite hr
  have h := nearestAway_ratRoundHalfAway (magUnits (fmag c.fs)) _ h2.2
  unfold TableLength
  rw [h1.1, h2.1]
  exact ⟨fun g => by exact_mod_cast nearestAway_unique (by exact_mod_cast h2.2) g h, fun g => g ▸ h⟩

end Sys2Proof.Machine
end

