-- ==== Sys2Proof/Laws/Sparse.lean ====
section
/-! SUPPORT. The laws of sparse data and of the arena's bytes: a read after a write, and the canonical form,
which every operation keeps. -/

namespace Sys2Proof.Machine

variable {α : Type}

/-! ## Reading -/

theorem sparseGet_cons (d : α) (e : Nat × α) (l : List (Nat × α)) (i : Nat) :
    sparseGet d (e :: l) i = if i = e.1 then e.2 else sparseGet d l i := by
  obtain ⟨k, v⟩ := e; rfl

theorem sparseGet_clear (d : α) (l : List (Nat × α)) (lo len i : Nat) :
    sparseGet d (sparseClear l lo len) i = if lo ≤ i ∧ i < lo + len then d else sparseGet d l i := by
  induction l with
  | nil => simp [sparseClear, sparseGet]
  | cons e l ih =>
    have hc : sparseClear (e :: l) lo len =
        if (decide (e.1 < lo) || decide (lo + len ≤ e.1)) = true then e :: sparseClear l lo len
        else sparseClear l lo len := by
      unfold sparseClear; rw [List.filter_cons]
    rw [hc, sparseGet_cons]
    by_cases h : (decide (e.1 < lo) || decide (lo + len ≤ e.1)) = true
    · rw [if_pos h, sparseGet_cons, ih]
      simp only [Bool.or_eq_true, decide_eq_true_eq] at h
      by_cases h1 : i = e.1
      · rw [if_pos h1, if_pos h1, if_neg (by omega)]
      · rw [if_neg h1, if_neg h1]
    · rw [if_neg h, ih]
      simp only [Bool.or_eq_true, decide_eq_true_eq] at h
      by_cases h1 : i = e.1
      · rw [if_pos (by omega), if_pos (by omega)]
      · rw [if_neg h1]

theorem sparseGet_insert_same (d : α) (l : List (Nat × α)) (i : Nat) (v : α)
    (h : ∀ e ∈ l, e.1 ≠ i) : sparseGet d (sparseInsert i v l) i = v := by
  induction l with
  | nil => simp [sparseInsert, sparseGet]
  | cons e l ih =>
    obtain ⟨k, x⟩ := e
    have hk : k ≠ i := h (k, x) List.mem_cons_self
    by_cases hlt : i < k
    · simp [sparseInsert, hlt, sparseGet]
    · simp only [sparseInsert, hlt, if_false, sparseGet, Ne.symm hk]
      exact ih (fun e he => h e (List.mem_cons_of_mem _ he))

theorem sparseGet_insert_other (d : α) (l : List (Nat × α)) (i j : Nat) (v : α) (h : j ≠ i) :
    sparseGet d (sparseInsert i v l) j = sparseGet d l j := by
  induction l with
  | nil => simp [sparseInsert, sparseGet, h]
  | cons e l ih =>
    obtain ⟨k, x⟩ := e
    by_cases hlt : i < k
    · simp [sparseInsert, hlt, sparseGet, h]
    · simp only [sparseInsert, hlt, if_false, sparseGet, ih]

theorem mem_sparseClear (l : List (Nat × α)) (lo len : Nat) (e : Nat × α) :
    e ∈ sparseClear l lo len ↔ e ∈ l ∧ (e.1 < lo ∨ lo + len ≤ e.1) := by
  simp [sparseClear]

/-- A read of the key just written gives the value written. -/
theorem sparseGet_put_same [DecidableEq α] (d : α) (l : List (Nat × α)) (i : Nat) (v : α) :
    sparseGet d (sparsePut d l i v) i = v := by
  unfold sparsePut
  split
  · rename_i h; rw [sparseGet_clear, if_pos (by omega), h]
  · refine sparseGet_insert_same d _ i v (fun e he => ?_)
    rw [mem_sparseClear] at he; omega

/-- A read of another key is not changed by a write. -/
theorem sparseGet_put_other [DecidableEq α] (d : α) (l : List (Nat × α)) (i j : Nat) (v : α)
    (h : j ≠ i) : sparseGet d (sparsePut d l i v) j = sparseGet d l j := by
  unfold sparsePut
  split
  · rw [sparseGet_clear, if_neg (by omega)]
  · rw [sparseGet_insert_other d _ i j v h, sparseGet_clear, if_neg (by omega)]

theorem sparseGet_put [DecidableEq α] (d : α) (l : List (Nat × α)) (i j : Nat) (v : α) :
    sparseGet d (sparsePut d l i v) j = if j = i then v else sparseGet d l j := by
  split
  · rename_i h; subst h; exact sparseGet_put_same d l j v
  · rename_i h; exact sparseGet_put_other d l i j v h

/-! ## The canonical form -/

theorem sparseSorted_cons (e : Nat × α) (l : List (Nat × α)) :
    sparseSorted (e :: l) = true ↔ (∀ x ∈ l, e.1 < x.1) ∧ sparseSorted l = true := by
  obtain ⟨k, v⟩ := e
  simp [sparseSorted, List.all_eq_true]

theorem sparseSorted_clear (l : List (Nat × α)) (lo len : Nat) (h : sparseSorted l = true) :
    sparseSorted (sparseClear l lo len) = true := by
  induction l with
  | nil => rfl
  | cons e l ih =>
    rw [sparseSorted_cons] at h
    unfold sparseClear
    rw [List.filter_cons]
    split
    · rw [sparseSorted_cons]
      refine ⟨fun x hx => h.1 x (List.mem_filter.mp hx).1, ih h.2⟩
    · exact ih h.2

theorem mem_sparseInsert (l : List (Nat × α)) (i : Nat) (v : α) (e : Nat × α)
    (h : e ∈ sparseInsert i v l) : e = (i, v) ∨ e ∈ l := by
  induction l with
  | nil => simpa [sparseInsert] using h
  | cons x l ih =>
    obtain ⟨k, y⟩ := x
    by_cases hlt : i < k
    · simpa [sparseInsert, hlt] using h
    · simp only [sparseInsert, hlt, if_false, List.mem_cons] at h
      rcases h with h | h
      · exact .inr (by simp [h])
      · rcases ih h with h | h
        · exact .inl h
        · exact .inr (List.mem_cons_of_mem _ h)

theorem sparseSorted_insert (l : List (Nat × α)) (i : Nat) (v : α) (h : sparseSorted l = true)
    (hi : ∀ e ∈ l, e.1 ≠ i) : sparseSorted (sparseInsert i v l) = true := by
  induction l with
  | nil => rfl
  | cons x l ih =>
    obtain ⟨k, y⟩ := x
    have hx := (sparseSorted_cons (k, y) l).mp h
    have hk : k ≠ i := hi (k, y) List.mem_cons_self
    by_cases hlt : i < k
    · simp only [sparseInsert, hlt, if_true]
      rw [sparseSorted_cons]
      refine ⟨fun e he => ?_, h⟩
      rcases List.mem_cons.mp he with rfl | he
      · exact hlt
      · exact Nat.lt_trans hlt (hx.1 e he)
    · simp only [sparseInsert, hlt, if_false]
      rw [sparseSorted_cons]
      refine ⟨fun e he => ?_, ih hx.2 (fun e he => hi e (List.mem_cons_of_mem _ he))⟩
      rcases mem_sparseInsert l i v e he with rfl | he
      · show k < i; omega
      · exact hx.1 e he

theorem sparseWf_iff [DecidableEq α] (d : α) (l : List (Nat × α)) :
    sparseWf d l = true ↔ sparseSorted l = true ∧ ∀ e ∈ l, e.2 ≠ d := by
  simp [sparseWf, List.all_eq_true]

theorem sparseWf_nil [DecidableEq α] (d : α) : sparseWf d ([] : List (Nat × α)) = true := rfl

theorem sparseWf_clear [DecidableEq α] (d : α) (l : List (Nat × α)) (lo len : Nat)
    (h : sparseWf d l = true) : sparseWf d (sparseClear l lo len) = true := by
  rw [sparseWf_iff] at h ⊢
  refine ⟨sparseSorted_clear l lo len h.1, fun e he => h.2 e ((mem_sparseClear _ _ _ _).mp he).1⟩

/-- A write keeps the canonical form. -/
theorem sparseWf_put [DecidableEq α] (d : α) (l : List (Nat × α)) (i : Nat) (v : α)
    (h : sparseWf d l = true) : sparseWf d (sparsePut d l i v) = true := by
  have hc := sparseWf_clear d l i 1 h
  unfold sparsePut
  split
  · exact hc
  · rename_i hv
    rw [sparseWf_iff] at hc ⊢
    refine ⟨sparseSorted_insert _ i v hc.1 (fun e he => ?_), fun e he => ?_⟩
    · rw [mem_sparseClear] at he; omega
    · rcases mem_sparseInsert _ i v e he with rfl | he
      · exact hv
      · exact hc.2 e he

/-- An entry after a write is the one written or one that stood there before. -/
theorem mem_sparsePut [DecidableEq α] (d : α) (l : List (Nat × α)) (i : Nat) (v : α) (e : Nat × α)
    (h : e ∈ sparsePut d l i v) : e = (i, v) ∨ e ∈ l := by
  unfold sparsePut at h
  split at h
  · exact .inr ((mem_sparseClear _ _ _ _).mp h).1
  · rcases mem_sparseInsert _ i v e h with h | h
    · exact .inl h
    · exact .inr ((mem_sparseClear _ _ _ _).mp h).1

/-- An entry of a canonical list is what its key reads as. -/
theorem sparseGet_of_mem (d : α) (l : List (Nat × α)) (h : sparseSorted l = true) (e : Nat × α)
    (he : e ∈ l) : sparseGet d l e.1 = e.2 := by
  induction l with
  | nil => simp at he
  | cons x l ih =>
    rw [sparseSorted_cons] at h
    rw [sparseGet_cons]
    rcases List.mem_cons.mp he with rfl | he
    · rw [if_pos rfl]
    · have := h.1 e he
      rw [if_neg (by omega)]; exact ih h.2 he

/-- A key that reads as another value than `d` is listed. -/
theorem mem_of_sparseGet_ne (d : α) (l : List (Nat × α)) (i : Nat) (h : sparseGet d l i ≠ d) :
    (i, sparseGet d l i) ∈ l := by
  induction l with
  | nil => simp [sparseGet] at h
  | cons x l ih =>
    rw [sparseGet_cons] at h ⊢
    split
    · rename_i hi; subst hi; simp
    · rename_i hi
      rw [if_neg hi] at h
      exact List.mem_cons_of_mem _ (ih h)

/-- A canonical list is determined by what it reads as: equal contents are equal data. -/
theorem sparse_ext [DecidableEq α] (d : α) : ∀ (l m : List (Nat × α)), sparseWf d l = true →
    sparseWf d m = true → (∀ i, sparseGet d l i = sparseGet d m i) → l = m := by
  intro l
  induction l with
  | nil =>
    intro m _ hm h
    cases m with
    | nil => rfl
    | cons e m =>
      rw [sparseWf_iff] at hm
      have := h e.1
      rw [sparseGet_of_mem d _ hm.1 e List.mem_cons_self] at this
      exact absurd this.symm (hm.2 e List.mem_cons_self)
  | cons x l ih =>
    intro m hl hm h
    rw [sparseWf_iff] at hl hm
    have hxl := (sparseSorted_cons x l).mp hl.1
    cases m with
    | nil =>
      have := h x.1
      rw [sparseGet_of_mem d _ hl.1 x List.mem_cons_self] at this
      exact absurd this (hl.2 x List.mem_cons_self)
    | cons y m =>
      have hym := (sparseSorted_cons y m).mp hm.1
      have hx := h x.1
      have hy := h y.1
      rw [sparseGet_of_mem d _ hl.1 x List.mem_cons_self] at hx
      rw [sparseGet_of_mem d _ hm.1 y List.mem_cons_self] at hy
      have hmx : (x.1, x.2) ∈ y :: m := by
        rw [hx]; exact mem_of_sparseGet_ne d _ _ (hx ▸ hl.2 x List.mem_cons_self)
      have hmy : (y.1, y.2) ∈ x :: l := by
        rw [← hy]; exact mem_of_sparseGet_ne d _ _ (hy.symm ▸ hm.2 y List.mem_cons_self)
      have hkey : x.1 = y.1 := by
        rcases List.mem_cons.mp hmx with e | e
        · exact congrArg Prod.fst e
        · rcases List.mem_cons.mp hmy with e' | e'
          · exact (congrArg Prod.fst e').symm
          · have := hym.1 _ e; have := hxl.1 _ e'; omega
      have hxy : x = y := by
        refine Prod.ext hkey ?_
        rw [hx, hkey, sparseGet_of_mem d _ hm.1 y List.mem_cons_self]
      subst hxy
      congr 1
      refine ih m ?_ ?_ (fun i => ?_)
      · rw [sparseWf_iff]; exact ⟨hxl.2, fun e he => hl.2 e (List.mem_cons_of_mem _ he)⟩
      · rw [sparseWf_iff]; exact ⟨hym.2, fun e he => hm.2 e (List.mem_cons_of_mem _ he)⟩
      · have hi := h i
        rw [sparseGet_cons, sparseGet_cons] at hi
        by_cases he : i = x.1
        · have hnl : ∀ (t : List (Nat × α)), (∀ e ∈ t, x.1 < e.1) → sparseGet d t i = d := by
            intro t ht
            by_contra hc
            have := ht _ (mem_of_sparseGet_ne d t i hc)
            simp [he] at this
          rw [hnl l hxl.1, hnl m hym.1]
        · rwa [if_neg he, if_neg he] at hi

/-! ## The arena's bytes -/

theorem memReadByte_writeByte (m : Memory) (a b : Nat) (v : Byte) :
    memReadByte (memWriteByte m a v) b = if b = a then v else memReadByte m b :=
  sparseGet_put _ _ _ _ _

theorem memReadByte_clear (m : Memory) (lo len a : Nat) :
    memReadByte (memClear m lo len) a = if lo ≤ a ∧ a < lo + len then 0 else memReadByte m a :=
  sparseGet_clear _ _ _ _ _

/-- Every byte after a word is stored. -/
theorem memReadByte_writeWord (m : Memory) (a b : Nat) (v : Word) :
    memReadByte (memWriteWord m a v) b =
      if b = a + 3 then v.extractLsb' 24 8 else if b = a + 2 then v.extractLsb' 16 8
      else if b = a + 1 then v.extractLsb' 8 8 else if b = a then v.extractLsb' 0 8
      else memReadByte m b := by
  simp only [memWriteWord, memReadByte_writeByte]

/-- A word stored reads back (R210). -/
theorem memReadWord_writeWord_same (m : Memory) (a : Nat) (v : Word) :
    memReadWord (memWriteWord m a v) a = v := by
  have h0 : memReadByte (memWriteWord m a v) a = v.extractLsb' 0 8 := by
    rw [memReadByte_writeWord, if_neg (by omega), if_neg (by omega), if_neg (by omega), if_pos rfl]
  have h1 : memReadByte (memWriteWord m a v) (a + 1) = v.extractLsb' 8 8 := by
    rw [memReadByte_writeWord, if_neg (by omega), if_neg (by omega), if_pos rfl]
  have h2 : memReadByte (memWriteWord m a v) (a + 2) = v.extractLsb' 16 8 := by
    rw [memReadByte_writeWord, if_neg (by omega), if_pos rfl]
  have h3 : memReadByte (memWriteWord m a v) (a + 3) = v.extractLsb' 24 8 := by
    rw [memReadByte_writeWord, if_pos rfl]
  unfold memReadWord
  rw [h0, h1, h2, h3]
  apply BitVec.eq_of_toNat_eq
  simp only [BitVec.toNat_append, BitVec.extractLsb'_toNat, Nat.shiftRight_eq_div_pow]
  have := v.isLt
  rw [← Nat.shiftLeft_add_eq_or_of_lt (by omega), ← Nat.shiftLeft_add_eq_or_of_lt (by omega),
    ← Nat.shiftLeft_add_eq_or_of_lt (by omega)]
  simp only [Nat.shiftLeft_eq]
  omega

/-- A byte outside the four of a word stored reads as before. -/
theorem memReadByte_writeWord_other (m : Memory) (a b : Nat) (v : Word) (h : b < a ∨ a + 4 ≤ b) :
    memReadByte (memWriteWord m a v) b = memReadByte m b := by
  rw [memReadByte_writeWord, if_neg (by omega), if_neg (by omega), if_neg (by omega),
    if_neg (by omega)]

/-- A word that shares no byte with a word stored reads as before. -/
theorem memReadWord_writeWord_other (m : Memory) (a b : Nat) (v : Word) (h : b + 4 ≤ a ∨ a + 4 ≤ b) :
    memReadWord (memWriteWord m a v) b = memReadWord m b := by
  unfold memReadWord
  rw [memReadByte_writeWord_other m a _ v (by omega), memReadByte_writeWord_other m a _ v (by omega),
    memReadByte_writeWord_other m a _ v (by omega), memReadByte_writeWord_other m a _ v (by omega)]

/-- A word inside a range made 0 reads 0. -/
theorem memReadWord_clear (m : Memory) (lo len a : Nat) (h : lo ≤ a ∧ a + 4 ≤ lo + len) :
    memReadWord (memClear m lo len) a = 0#32 := by
  unfold memReadWord
  simp only [memReadByte_clear]
  rw [if_pos (by omega), if_pos (by omega), if_pos (by omega), if_pos (by omega)]
  decide

/-- A word outside a range made 0 reads as before. -/
theorem memReadWord_clear_other (m : Memory) (lo len a : Nat) (h : a + 4 ≤ lo ∨ lo + len ≤ a) :
    memReadWord (memClear m lo len) a = memReadWord m a := by
  unfold memReadWord
  simp only [memReadByte_clear]
  rw [if_neg (by omega), if_neg (by omega), if_neg (by omega), if_neg (by omega)]

theorem Memory.wf_nil : Memory.wf [] = true := rfl

theorem Memory.wf_writeByte (m : Memory) (a : Nat) (b : Byte) (h : m.wf = true) :
    Memory.wf (memWriteByte m a b) = true := sparseWf_put _ _ _ _ h

theorem Memory.wf_writeWord (m : Memory) (a : Nat) (v : Word) (h : m.wf = true) :
    Memory.wf (memWriteWord m a v) = true :=
  Memory.wf_writeByte _ _ _ (Memory.wf_writeByte _ _ _ (Memory.wf_writeByte _ _ _
    (Memory.wf_writeByte _ _ _ h)))

theorem Memory.wf_clear (m : Memory) (lo len : Nat) (h : m.wf = true) :
    Memory.wf (memClear m lo len) = true := sparseWf_clear _ _ _ _ h

end Sys2Proof.Machine
end

