-- ==== Sys2Proof/Laws/Units.lean ====
section
/-! SUPPORT. The banks of unit fields: a bank reads back what was written for a unit, and a write for one
unit leaves every other unit's value alone. -/

namespace Sys2Proof.Machine

/-- Two units never share a place of a bank. -/
def SlotInjective {n : Nat} (slot : UnitId → Option (Fin n)) : Prop :=
  ∀ j k i, slot j = some i → slot k = some i → j = k

theorem delaySlot_injective : SlotInjective delaySlot := by
  intro j k i hj hk
  cases j <;> simp only [delaySlot, Option.some.injEq, reduceCtorEq] at hj <;> subst hj <;>
    cases k <;> first | rfl | (exact absurd hk (by decide))

theorem allpassSlot_injective : SlotInjective allpassSlot := by
  intro j k i hj hk
  cases j <;> simp only [allpassSlot, Option.some.injEq, reduceCtorEq] at hj <;> subst hj <;>
    cases k <;> first | rfl | (exact absurd hk (by decide))

theorem modSlot_injective : SlotInjective modSlot := by
  intro j k i hj hk
  cases j <;> simp only [modSlot, Option.some.injEq, reduceCtorEq] at hj <;> subst hj <;>
    cases k <;> first | rfl | (exact absurd hk (by decide))

theorem poleSlot_injective : SlotInjective poleSlot := by
  intro j k i hj hk
  cases j <;> simp only [poleSlot, Option.some.injEq, reduceCtorEq] at hj <;> subst hj <;>
    cases k <;> first | rfl | (exact absurd hk (by decide))

theorem satSlot_injective : SlotInjective satSlot := by
  intro j k i hj hk
  cases j <;> simp only [satSlot, Option.some.injEq, reduceCtorEq] at hj <;> subst hj <;>
    cases k <;> first | rfl | (exact absurd hk (by decide))

theorem lfoSlot_injective : SlotInjective lfoSlot := by
  intro j k i hj hk
  cases j <;> simp only [lfoSlot, Option.some.injEq, reduceCtorEq] at hj <;> subst hj <;>
    cases k <;> first | rfl | (exact absurd hk (by decide))

theorem dzSlot_injective : SlotInjective dzSlot := by
  intro j k i hj hk
  cases j <;> simp only [dzSlot, Option.some.injEq, reduceCtorEq] at hj <;> subst hj <;>
    cases k <;> first | rfl | (exact absurd hk (by decide))

/-- Reading the unit just written gives the value written, where the unit has a place in the bank. -/
theorem bankGet_bankSet_same {α : Type} {n : Nat} (slot : UnitId → Option (Fin n)) (v : Vector α n)
    (k : UnitId) (x d : α) (h : (slot k).isSome = true) : bankGet slot (bankSet slot v k x) d k = x := by
  unfold bankGet bankSet
  cases hk : slot k with
  | none => simp [hk] at h
  | some i => simp

/-- A write for another unit is not seen. -/
theorem bankGet_bankSet_other {α : Type} {n : Nat} {slot : UnitId → Option (Fin n)}
    (hs : SlotInjective slot) (v : Vector α n) (j k : UnitId) (x d : α) (h : k ≠ j) :
    bankGet slot (bankSet slot v j x) d k = bankGet slot v d k := by
  unfold bankGet bankSet
  cases hj : slot j with
  | none => rfl
  | some i =>
    cases hk : slot k with
    | none => rfl
    | some i' =>
      have hne : i ≠ i' := fun e => h (hs k j i' hk (e ▸ hj))
      have hne' : i.val ≠ i'.val := fun e => hne (Fin.ext e)
      simp [Vector.getElem_set_ne, hne']

/-- A write for a unit that has no place changes nothing. -/
theorem bankSet_none {α : Type} {n : Nat} {slot : UnitId → Option (Fin n)} (v : Vector α n)
    {k : UnitId} (x : α) (h : slot k = none) : bankSet slot v k x = v := by
  unfold bankSet; rw [h]

/-- Of two writes for one unit the later stands. -/
theorem bankSet_bankSet {α : Type} {n : Nat} (slot : UnitId → Option (Fin n)) (v : Vector α n)
    (k : UnitId) (x y : α) : bankSet slot (bankSet slot v k x) k y = bankSet slot v k y := by
  unfold bankSet
  cases slot k with
  | none => rfl
  | some i => simp

/-- Writes for two units commute. -/
theorem bankSet_comm {α : Type} {n : Nat} {slot : UnitId → Option (Fin n)} (hs : SlotInjective slot)
    (v : Vector α n) (j k : UnitId) (x y : α) (h : j ≠ k) :
    bankSet slot (bankSet slot v j x) k y = bankSet slot (bankSet slot v k y) j x := by
  unfold bankSet
  cases hj : slot j with
  | none => rfl
  | some i =>
    cases hk : slot k with
    | none => rfl
    | some i' =>
      have hne : i.val ≠ i'.val := fun e => h (hs j k i' (Fin.ext e ▸ hj) hk)
      exact Vector.set_comm _ _ hne

/-! The units of a kind have a place in the bank of that kind. -/

theorem delaySlot_isSome_of_dl {k : UnitId} (h : admits dlKinds k = true) :
    (delaySlot k).isSome = true := by cases k <;> first | rfl | (exact absurd h (by decide))

theorem delaySlot_isSome_of_ap {k : UnitId} (h : admits apKinds k = true) :
    (delaySlot k).isSome = true := by cases k <;> first | rfl | (exact absurd h (by decide))

theorem allpassSlot_isSome {k : UnitId} (h : admits apKinds k = true) :
    (allpassSlot k).isSome = true := by cases k <;> first | rfl | (exact absurd h (by decide))

theorem modSlot_isSome {k : UnitId} (h : admits apmKinds k = true) : (modSlot k).isSome = true := by
  cases k <;> first | rfl | (exact absurd h (by decide))

theorem poleSlot_isSome {k : UnitId} (h : admits opKinds k = true) : (poleSlot k).isSome = true := by
  cases k <;> first | rfl | (exact absurd h (by decide))

theorem satSlot_isSome {k : UnitId} (h : admits satKinds k = true) : (satSlot k).isSome = true := by
  cases k <;> first | rfl | (exact absurd h (by decide))

theorem lfoSlot_isSome {k : UnitId} (h : admits lfoKinds k = true) : (lfoSlot k).isSome = true := by
  cases k <;> first | rfl | (exact absurd h (by decide))

theorem dzSlot_isSome {k : UnitId} (h : admits dzKinds k = true) : (dzSlot k).isSome = true := by
  cases k <;> first | rfl | (exact absurd h (by decide))

theorem delaySlot_isSome_iff (k : UnitId) : (delaySlot k).isSome = true ↔ k ∈ delayUnits := by
  cases k <;> decide

/-! The unit numbers and the parameter indices (R320, R330). -/

theorem unitOfNumber_unitNumber (k : UnitId) : unitOfNumber (unitNumber k) = some k := by
  cases k <;> decide

theorem unitNumber_of_unitOfNumber {n : BitVec 8} {k : UnitId} (h : unitOfNumber n = some k) :
    unitNumber k = n := by
  have := List.find?_some h
  simpa using this

theorem paramOfIndex_paramIndex (p : Param) : paramOfIndex (paramIndex p) = some p := by
  cases p <;> decide

theorem paramIndex_of_paramOfIndex {n : BitVec 16} {p : Param} (h : paramOfIndex n = some p) :
    paramIndex p = n := by
  unfold paramOfIndex at h
  rw [List.getElem?_eq_some_iff] at h
  obtain ⟨hlt, h⟩ := h
  simp only [List.length_cons, List.length_nil] at hlt
  have : n = BitVec.ofNat 16 n.toNat := by simp
  generalize n.toNat = m at *
  subst this
  rcases m with _ | _ | _ | _ | _ | _ | _ | _ | _ | _ | m <;>
    first | (subst h; rfl) | (exfalso; omega)

end Sys2Proof.Machine
end

