-- ==== Sys2Proof/Laws/State.lean ====
section
/-! SUPPORT. What each update of the state leaves and what it changes: one lemma per field and one per
accessor, true by definition, so that no later proof unfolds a record update. -/

namespace Sys2Proof.Machine

/-! ## `tick` -/

@[simp] theorem State.tick_cfg (s : State) : (s.tick).cfg = s.cfg := rfl
@[simp] theorem State.tick_reserved (s : State) : (s.tick).reserved = s.reserved := rfl
@[simp] theorem State.tick_created (s : State) : (s.tick).created = s.created := rfl
@[simp] theorem State.tick_ready (s : State) : (s.tick).ready = s.ready := rfl
@[simp] theorem State.tick_faulted (s : State) : (s.tick).faulted = s.faulted := rfl
@[simp] theorem State.tick_faultCode (s : State) : (s.tick).faultCode = s.faultCode := rfl
@[simp] theorem State.tick_params (s : State) : (s.tick).params = s.params := rfl
@[simp] theorem State.tick_arena (s : State) : (s.tick).arena = s.arena := rfl
@[simp] theorem State.tick_delays (s : State) : (s.tick).delays = s.delays := rfl
@[simp] theorem State.tick_alphas (s : State) : (s.tick).alphas = s.alphas := rfl
@[simp] theorem State.tick_mods (s : State) : (s.tick).mods = s.mods := rfl
@[simp] theorem State.tick_poles (s : State) : (s.tick).poles = s.poles := rfl
@[simp] theorem State.tick_drives (s : State) : (s.tick).drives = s.drives := rfl
@[simp] theorem State.tick_oscs (s : State) : (s.tick).oscs = s.oscs := rfl
@[simp] theorem State.tick_dezips (s : State) : (s.tick).dezips = s.dezips := rfl
@[simp] theorem State.tick_xfbA (s : State) : (s.tick).xfbA = s.xfbA := rfl
@[simp] theorem State.tick_xfbB (s : State) : (s.tick).xfbB = s.xfbB := rfl
@[simp] theorem State.tick_agents (s : State) : (s.tick).agents = s.agents := rfl
@[simp] theorem State.tick_cur (s : State) : (s.tick).cur = s.cur := rfl
@[simp] theorem State.tick_draws (s : State) : (s.tick).draws = s.draws + 1 := rfl
@[simp] theorem State.tick_delay (s : State) (j : UnitId) :
    (s.tick).delay j = s.delay j := rfl
@[simp] theorem State.tick_alpha (s : State) (j : UnitId) :
    (s.tick).alpha j = s.alpha j := rfl
@[simp] theorem State.tick_modulation (s : State) (j : UnitId) :
    (s.tick).modulation j = s.modulation j := rfl
@[simp] theorem State.tick_pole (s : State) (j : UnitId) :
    (s.tick).pole j = s.pole j := rfl
@[simp] theorem State.tick_drive (s : State) (j : UnitId) :
    (s.tick).drive j = s.drive j := rfl
@[simp] theorem State.tick_osc (s : State) (j : UnitId) :
    (s.tick).osc j = s.osc j := rfl
@[simp] theorem State.tick_dezip (s : State) (j : UnitId) :
    (s.tick).dezip j = s.dezip j := rfl
@[simp] theorem State.tick_agent (s : State) (who : Nat) :
    (s.tick).agent who = s.agent who := rfl
@[simp] theorem State.tick_bufRead (s : State) (j : UnitId) (cell : Nat) :
    (s.tick).bufRead j cell = s.bufRead j cell := rfl
@[simp] theorem State.tick_statusWord (s : State) :
    (s.tick).statusWord = s.statusWord := rfl

/-! ## `setDelay` -/

@[simp] theorem State.setDelay_cfg (s : State) (k : UnitId) (u : Delay) : (s.setDelay k u).cfg = s.cfg := rfl
@[simp] theorem State.setDelay_reserved (s : State) (k : UnitId) (u : Delay) : (s.setDelay k u).reserved = s.reserved := rfl
@[simp] theorem State.setDelay_created (s : State) (k : UnitId) (u : Delay) : (s.setDelay k u).created = s.created := rfl
@[simp] theorem State.setDelay_ready (s : State) (k : UnitId) (u : Delay) : (s.setDelay k u).ready = s.ready := rfl
@[simp] theorem State.setDelay_faulted (s : State) (k : UnitId) (u : Delay) : (s.setDelay k u).faulted = s.faulted := rfl
@[simp] theorem State.setDelay_faultCode (s : State) (k : UnitId) (u : Delay) : (s.setDelay k u).faultCode = s.faultCode := rfl
@[simp] theorem State.setDelay_params (s : State) (k : UnitId) (u : Delay) : (s.setDelay k u).params = s.params := rfl
@[simp] theorem State.setDelay_arena (s : State) (k : UnitId) (u : Delay) : (s.setDelay k u).arena = s.arena := rfl
@[simp] theorem State.setDelay_delays (s : State) (k : UnitId) (u : Delay) : (s.setDelay k u).delays = bankSet delaySlot s.delays k u := rfl
@[simp] theorem State.setDelay_alphas (s : State) (k : UnitId) (u : Delay) : (s.setDelay k u).alphas = s.alphas := rfl
@[simp] theorem State.setDelay_mods (s : State) (k : UnitId) (u : Delay) : (s.setDelay k u).mods = s.mods := rfl
@[simp] theorem State.setDelay_poles (s : State) (k : UnitId) (u : Delay) : (s.setDelay k u).poles = s.poles := rfl
@[simp] theorem State.setDelay_drives (s : State) (k : UnitId) (u : Delay) : (s.setDelay k u).drives = s.drives := rfl
@[simp] theorem State.setDelay_oscs (s : State) (k : UnitId) (u : Delay) : (s.setDelay k u).oscs = s.oscs := rfl
@[simp] theorem State.setDelay_dezips (s : State) (k : UnitId) (u : Delay) : (s.setDelay k u).dezips = s.dezips := rfl
@[simp] theorem State.setDelay_xfbA (s : State) (k : UnitId) (u : Delay) : (s.setDelay k u).xfbA = s.xfbA := rfl
@[simp] theorem State.setDelay_xfbB (s : State) (k : UnitId) (u : Delay) : (s.setDelay k u).xfbB = s.xfbB := rfl
@[simp] theorem State.setDelay_agents (s : State) (k : UnitId) (u : Delay) : (s.setDelay k u).agents = s.agents := rfl
@[simp] theorem State.setDelay_cur (s : State) (k : UnitId) (u : Delay) : (s.setDelay k u).cur = s.cur := rfl
@[simp] theorem State.setDelay_draws (s : State) (k : UnitId) (u : Delay) : (s.setDelay k u).draws = s.draws := rfl
@[simp] theorem State.setDelay_alpha (s : State) (k : UnitId) (u : Delay) (j : UnitId) :
    (s.setDelay k u).alpha j = s.alpha j := rfl
@[simp] theorem State.setDelay_modulation (s : State) (k : UnitId) (u : Delay) (j : UnitId) :
    (s.setDelay k u).modulation j = s.modulation j := rfl
@[simp] theorem State.setDelay_pole (s : State) (k : UnitId) (u : Delay) (j : UnitId) :
    (s.setDelay k u).pole j = s.pole j := rfl
@[simp] theorem State.setDelay_drive (s : State) (k : UnitId) (u : Delay) (j : UnitId) :
    (s.setDelay k u).drive j = s.drive j := rfl
@[simp] theorem State.setDelay_osc (s : State) (k : UnitId) (u : Delay) (j : UnitId) :
    (s.setDelay k u).osc j = s.osc j := rfl
@[simp] theorem State.setDelay_dezip (s : State) (k : UnitId) (u : Delay) (j : UnitId) :
    (s.setDelay k u).dezip j = s.dezip j := rfl
@[simp] theorem State.setDelay_agent (s : State) (k : UnitId) (u : Delay) (who : Nat) :
    (s.setDelay k u).agent who = s.agent who := rfl
@[simp] theorem State.setDelay_nan (s : State) (k : UnitId) (u : Delay) (site : Nat) :
    (s.setDelay k u).nan site = s.nan site := rfl
@[simp] theorem State.setDelay_statusWord (s : State) (k : UnitId) (u : Delay) :
    (s.setDelay k u).statusWord = s.statusWord := rfl

/-! ## `setAlpha` -/

@[simp] theorem State.setAlpha_cfg (s : State) (k : UnitId) (a : F32) : (s.setAlpha k a).cfg = s.cfg := rfl
@[simp] theorem State.setAlpha_reserved (s : State) (k : UnitId) (a : F32) : (s.setAlpha k a).reserved = s.reserved := rfl
@[simp] theorem State.setAlpha_created (s : State) (k : UnitId) (a : F32) : (s.setAlpha k a).created = s.created := rfl
@[simp] theorem State.setAlpha_ready (s : State) (k : UnitId) (a : F32) : (s.setAlpha k a).ready = s.ready := rfl
@[simp] theorem State.setAlpha_faulted (s : State) (k : UnitId) (a : F32) : (s.setAlpha k a).faulted = s.faulted := rfl
@[simp] theorem State.setAlpha_faultCode (s : State) (k : UnitId) (a : F32) : (s.setAlpha k a).faultCode = s.faultCode := rfl
@[simp] theorem State.setAlpha_params (s : State) (k : UnitId) (a : F32) : (s.setAlpha k a).params = s.params := rfl
@[simp] theorem State.setAlpha_arena (s : State) (k : UnitId) (a : F32) : (s.setAlpha k a).arena = s.arena := rfl
@[simp] theorem State.setAlpha_delays (s : State) (k : UnitId) (a : F32) : (s.setAlpha k a).delays = s.delays := rfl
@[simp] theorem State.setAlpha_alphas (s : State) (k : UnitId) (a : F32) : (s.setAlpha k a).alphas = bankSet allpassSlot s.alphas k a := rfl
@[simp] theorem State.setAlpha_mods (s : State) (k : UnitId) (a : F32) : (s.setAlpha k a).mods = s.mods := rfl
@[simp] theorem State.setAlpha_poles (s : State) (k : UnitId) (a : F32) : (s.setAlpha k a).poles = s.poles := rfl
@[simp] theorem State.setAlpha_drives (s : State) (k : UnitId) (a : F32) : (s.setAlpha k a).drives = s.drives := rfl
@[simp] theorem State.setAlpha_oscs (s : State) (k : UnitId) (a : F32) : (s.setAlpha k a).oscs = s.oscs := rfl
@[simp] theorem State.setAlpha_dezips (s : State) (k : UnitId) (a : F32) : (s.setAlpha k a).dezips = s.dezips := rfl
@[simp] theorem State.setAlpha_xfbA (s : State) (k : UnitId) (a : F32) : (s.setAlpha k a).xfbA = s.xfbA := rfl
@[simp] theorem State.setAlpha_xfbB (s : State) (k : UnitId) (a : F32) : (s.setAlpha k a).xfbB = s.xfbB := rfl
@[simp] theorem State.setAlpha_agents (s : State) (k : UnitId) (a : F32) : (s.setAlpha k a).agents = s.agents := rfl
@[simp] theorem State.setAlpha_cur (s : State) (k : UnitId) (a : F32) : (s.setAlpha k a).cur = s.cur := rfl
@[simp] theorem State.setAlpha_draws (s : State) (k : UnitId) (a : F32) : (s.setAlpha k a).draws = s.draws := rfl
@[simp] theorem State.setAlpha_delay (s : State) (k : UnitId) (a : F32) (j : UnitId) :
    (s.setAlpha k a).delay j = s.delay j := rfl
@[simp] theorem State.setAlpha_modulation (s : State) (k : UnitId) (a : F32) (j : UnitId) :
    (s.setAlpha k a).modulation j = s.modulation j := rfl
@[simp] theorem State.setAlpha_pole (s : State) (k : UnitId) (a : F32) (j : UnitId) :
    (s.setAlpha k a).pole j = s.pole j := rfl
@[simp] theorem State.setAlpha_drive (s : State) (k : UnitId) (a : F32) (j : UnitId) :
    (s.setAlpha k a).drive j = s.drive j := rfl
@[simp] theorem State.setAlpha_osc (s : State) (k : UnitId) (a : F32) (j : UnitId) :
    (s.setAlpha k a).osc j = s.osc j := rfl
@[simp] theorem State.setAlpha_dezip (s : State) (k : UnitId) (a : F32) (j : UnitId) :
    (s.setAlpha k a).dezip j = s.dezip j := rfl
@[simp] theorem State.setAlpha_agent (s : State) (k : UnitId) (a : F32) (who : Nat) :
    (s.setAlpha k a).agent who = s.agent who := rfl
@[simp] theorem State.setAlpha_nan (s : State) (k : UnitId) (a : F32) (site : Nat) :
    (s.setAlpha k a).nan site = s.nan site := rfl
@[simp] theorem State.setAlpha_bufRead (s : State) (k : UnitId) (a : F32) (j : UnitId) (cell : Nat) :
    (s.setAlpha k a).bufRead j cell = s.bufRead j cell := rfl
@[simp] theorem State.setAlpha_statusWord (s : State) (k : UnitId) (a : F32) :
    (s.setAlpha k a).statusWord = s.statusWord := rfl

/-! ## `setModulation` -/

@[simp] theorem State.setModulation_cfg (s : State) (k : UnitId) (m : Modulation) : (s.setModulation k m).cfg = s.cfg := rfl
@[simp] theorem State.setModulation_reserved (s : State) (k : UnitId) (m : Modulation) : (s.setModulation k m).reserved = s.reserved := rfl
@[simp] theorem State.setModulation_created (s : State) (k : UnitId) (m : Modulation) : (s.setModulation k m).created = s.created := rfl
@[simp] theorem State.setModulation_ready (s : State) (k : UnitId) (m : Modulation) : (s.setModulation k m).ready = s.ready := rfl
@[simp] theorem State.setModulation_faulted (s : State) (k : UnitId) (m : Modulation) : (s.setModulation k m).faulted = s.faulted := rfl
@[simp] theorem State.setModulation_faultCode (s : State) (k : UnitId) (m : Modulation) : (s.setModulation k m).faultCode = s.faultCode := rfl
@[simp] theorem State.setModulation_params (s : State) (k : UnitId) (m : Modulation) : (s.setModulation k m).params = s.params := rfl
@[simp] theorem State.setModulation_arena (s : State) (k : UnitId) (m : Modulation) : (s.setModulation k m).arena = s.arena := rfl
@[simp] theorem State.setModulation_delays (s : State) (k : UnitId) (m : Modulation) : (s.setModulation k m).delays = s.delays := rfl
@[simp] theorem State.setModulation_alphas (s : State) (k : UnitId) (m : Modulation) : (s.setModulation k m).alphas = s.alphas := rfl
@[simp] theorem State.setModulation_mods (s : State) (k : UnitId) (m : Modulation) : (s.setModulation k m).mods = bankSet modSlot s.mods k m := rfl
@[simp] theorem State.setModulation_poles (s : State) (k : UnitId) (m : Modulation) : (s.setModulation k m).poles = s.poles := rfl
@[simp] theorem State.setModulation_drives (s : State) (k : UnitId) (m : Modulation) : (s.setModulation k m).drives = s.drives := rfl
@[simp] theorem State.setModulation_oscs (s : State) (k : UnitId) (m : Modulation) : (s.setModulation k m).oscs = s.oscs := rfl
@[simp] theorem State.setModulation_dezips (s : State) (k : UnitId) (m : Modulation) : (s.setModulation k m).dezips = s.dezips := rfl
@[simp] theorem State.setModulation_xfbA (s : State) (k : UnitId) (m : Modulation) : (s.setModulation k m).xfbA = s.xfbA := rfl
@[simp] theorem State.setModulation_xfbB (s : State) (k : UnitId) (m : Modulation) : (s.setModulation k m).xfbB = s.xfbB := rfl
@[simp] theorem State.setModulation_agents (s : State) (k : UnitId) (m : Modulation) : (s.setModulation k m).agents = s.agents := rfl
@[simp] theorem State.setModulation_cur (s : State) (k : UnitId) (m : Modulation) : (s.setModulation k m).cur = s.cur := rfl
@[simp] theorem State.setModulation_draws (s : State) (k : UnitId) (m : Modulation) : (s.setModulation k m).draws = s.draws := rfl
@[simp] theorem State.setModulation_delay (s : State) (k : UnitId) (m : Modulation) (j : UnitId) :
    (s.setModulation k m).delay j = s.delay j := rfl
@[simp] theorem State.setModulation_alpha (s : State) (k : UnitId) (m : Modulation) (j : UnitId) :
    (s.setModulation k m).alpha j = s.alpha j := rfl
@[simp] theorem State.setModulation_pole (s : State) (k : UnitId) (m : Modulation) (j : UnitId) :
    (s.setModulation k m).pole j = s.pole j := rfl
@[simp] theorem State.setModulation_drive (s : State) (k : UnitId) (m : Modulation) (j : UnitId) :
    (s.setModulation k m).drive j = s.drive j := rfl
@[simp] theorem State.setModulation_osc (s : State) (k : UnitId) (m : Modulation) (j : UnitId) :
    (s.setModulation k m).osc j = s.osc j := rfl
@[simp] theorem State.setModulation_dezip (s : State) (k : UnitId) (m : Modulation) (j : UnitId) :
    (s.setModulation k m).dezip j = s.dezip j := rfl
@[simp] theorem State.setModulation_agent (s : State) (k : UnitId) (m : Modulation) (who : Nat) :
    (s.setModulation k m).agent who = s.agent who := rfl
@[simp] theorem State.setModulation_nan (s : State) (k : UnitId) (m : Modulation) (site : Nat) :
    (s.setModulation k m).nan site = s.nan site := rfl
@[simp] theorem State.setModulation_bufRead (s : State) (k : UnitId) (m : Modulation) (j : UnitId) (cell : Nat) :
    (s.setModulation k m).bufRead j cell = s.bufRead j cell := rfl
@[simp] theorem State.setModulation_statusWord (s : State) (k : UnitId) (m : Modulation) :
    (s.setModulation k m).statusWord = s.statusWord := rfl

/-! ## `setPole` -/

@[simp] theorem State.setPole_cfg (s : State) (k : UnitId) (p : OnePole) : (s.setPole k p).cfg = s.cfg := rfl
@[simp] theorem State.setPole_reserved (s : State) (k : UnitId) (p : OnePole) : (s.setPole k p).reserved = s.reserved := rfl
@[simp] theorem State.setPole_created (s : State) (k : UnitId) (p : OnePole) : (s.setPole k p).created = s.created := rfl
@[simp] theorem State.setPole_ready (s : State) (k : UnitId) (p : OnePole) : (s.setPole k p).ready = s.ready := rfl
@[simp] theorem State.setPole_faulted (s : State) (k : UnitId) (p : OnePole) : (s.setPole k p).faulted = s.faulted := rfl
@[simp] theorem State.setPole_faultCode (s : State) (k : UnitId) (p : OnePole) : (s.setPole k p).faultCode = s.faultCode := rfl
@[simp] theorem State.setPole_params (s : State) (k : UnitId) (p : OnePole) : (s.setPole k p).params = s.params := rfl
@[simp] theorem State.setPole_arena (s : State) (k : UnitId) (p : OnePole) : (s.setPole k p).arena = s.arena := rfl
@[simp] theorem State.setPole_delays (s : State) (k : UnitId) (p : OnePole) : (s.setPole k p).delays = s.delays := rfl
@[simp] theorem State.setPole_alphas (s : State) (k : UnitId) (p : OnePole) : (s.setPole k p).alphas = s.alphas := rfl
@[simp] theorem State.setPole_mods (s : State) (k : UnitId) (p : OnePole) : (s.setPole k p).mods = s.mods := rfl
@[simp] theorem State.setPole_poles (s : State) (k : UnitId) (p : OnePole) : (s.setPole k p).poles = bankSet poleSlot s.poles k p := rfl
@[simp] theorem State.setPole_drives (s : State) (k : UnitId) (p : OnePole) : (s.setPole k p).drives = s.drives := rfl
@[simp] theorem State.setPole_oscs (s : State) (k : UnitId) (p : OnePole) : (s.setPole k p).oscs = s.oscs := rfl
@[simp] theorem State.setPole_dezips (s : State) (k : UnitId) (p : OnePole) : (s.setPole k p).dezips = s.dezips := rfl
@[simp] theorem State.setPole_xfbA (s : State) (k : UnitId) (p : OnePole) : (s.setPole k p).xfbA = s.xfbA := rfl
@[simp] theorem State.setPole_xfbB (s : State) (k : UnitId) (p : OnePole) : (s.setPole k p).xfbB = s.xfbB := rfl
@[simp] theorem State.setPole_agents (s : State) (k : UnitId) (p : OnePole) : (s.setPole k p).agents = s.agents := rfl
@[simp] theorem State.setPole_cur (s : State) (k : UnitId) (p : OnePole) : (s.setPole k p).cur = s.cur := rfl
@[simp] theorem State.setPole_draws (s : State) (k : UnitId) (p : OnePole) : (s.setPole k p).draws = s.draws := rfl
@[simp] theorem State.setPole_delay (s : State) (k : UnitId) (p : OnePole) (j : UnitId) :
    (s.setPole k p).delay j = s.delay j := rfl
@[simp] theorem State.setPole_alpha (s : State) (k : UnitId) (p : OnePole) (j : UnitId) :
    (s.setPole k p).alpha j = s.alpha j := rfl
@[simp] theorem State.setPole_modulation (s : State) (k : UnitId) (p : OnePole) (j : UnitId) :
    (s.setPole k p).modulation j = s.modulation j := rfl
@[simp] theorem State.setPole_drive (s : State) (k : UnitId) (p : OnePole) (j : UnitId) :
    (s.setPole k p).drive j = s.drive j := rfl
@[simp] theorem State.setPole_osc (s : State) (k : UnitId) (p : OnePole) (j : UnitId) :
    (s.setPole k p).osc j = s.osc j := rfl
@[simp] theorem State.setPole_dezip (s : State) (k : UnitId) (p : OnePole) (j : UnitId) :
    (s.setPole k p).dezip j = s.dezip j := rfl
@[simp] theorem State.setPole_agent (s : State) (k : UnitId) (p : OnePole) (who : Nat) :
    (s.setPole k p).agent who = s.agent who := rfl
@[simp] theorem State.setPole_nan (s : State) (k : UnitId) (p : OnePole) (site : Nat) :
    (s.setPole k p).nan site = s.nan site := rfl
@[simp] theorem State.setPole_bufRead (s : State) (k : UnitId) (p : OnePole) (j : UnitId) (cell : Nat) :
    (s.setPole k p).bufRead j cell = s.bufRead j cell := rfl
@[simp] theorem State.setPole_statusWord (s : State) (k : UnitId) (p : OnePole) :
    (s.setPole k p).statusWord = s.statusWord := rfl

/-! ## `setDrive` -/

@[simp] theorem State.setDrive_cfg (s : State) (k : UnitId) (d : F32) : (s.setDrive k d).cfg = s.cfg := rfl
@[simp] theorem State.setDrive_reserved (s : State) (k : UnitId) (d : F32) : (s.setDrive k d).reserved = s.reserved := rfl
@[simp] theorem State.setDrive_created (s : State) (k : UnitId) (d : F32) : (s.setDrive k d).created = s.created := rfl
@[simp] theorem State.setDrive_ready (s : State) (k : UnitId) (d : F32) : (s.setDrive k d).ready = s.ready := rfl
@[simp] theorem State.setDrive_faulted (s : State) (k : UnitId) (d : F32) : (s.setDrive k d).faulted = s.faulted := rfl
@[simp] theorem State.setDrive_faultCode (s : State) (k : UnitId) (d : F32) : (s.setDrive k d).faultCode = s.faultCode := rfl
@[simp] theorem State.setDrive_params (s : State) (k : UnitId) (d : F32) : (s.setDrive k d).params = s.params := rfl
@[simp] theorem State.setDrive_arena (s : State) (k : UnitId) (d : F32) : (s.setDrive k d).arena = s.arena := rfl
@[simp] theorem State.setDrive_delays (s : State) (k : UnitId) (d : F32) : (s.setDrive k d).delays = s.delays := rfl
@[simp] theorem State.setDrive_alphas (s : State) (k : UnitId) (d : F32) : (s.setDrive k d).alphas = s.alphas := rfl
@[simp] theorem State.setDrive_mods (s : State) (k : UnitId) (d : F32) : (s.setDrive k d).mods = s.mods := rfl
@[simp] theorem State.setDrive_poles (s : State) (k : UnitId) (d : F32) : (s.setDrive k d).poles = s.poles := rfl
@[simp] theorem State.setDrive_drives (s : State) (k : UnitId) (d : F32) : (s.setDrive k d).drives = bankSet satSlot s.drives k d := rfl
@[simp] theorem State.setDrive_oscs (s : State) (k : UnitId) (d : F32) : (s.setDrive k d).oscs = s.oscs := rfl
@[simp] theorem State.setDrive_dezips (s : State) (k : UnitId) (d : F32) : (s.setDrive k d).dezips = s.dezips := rfl
@[simp] theorem State.setDrive_xfbA (s : State) (k : UnitId) (d : F32) : (s.setDrive k d).xfbA = s.xfbA := rfl
@[simp] theorem State.setDrive_xfbB (s : State) (k : UnitId) (d : F32) : (s.setDrive k d).xfbB = s.xfbB := rfl
@[simp] theorem State.setDrive_agents (s : State) (k : UnitId) (d : F32) : (s.setDrive k d).agents = s.agents := rfl
@[simp] theorem State.setDrive_cur (s : State) (k : UnitId) (d : F32) : (s.setDrive k d).cur = s.cur := rfl
@[simp] theorem State.setDrive_draws (s : State) (k : UnitId) (d : F32) : (s.setDrive k d).draws = s.draws := rfl
@[simp] theorem State.setDrive_delay (s : State) (k : UnitId) (d : F32) (j : UnitId) :
    (s.setDrive k d).delay j = s.delay j := rfl
@[simp] theorem State.setDrive_alpha (s : State) (k : UnitId) (d : F32) (j : UnitId) :
    (s.setDrive k d).alpha j = s.alpha j := rfl
@[simp] theorem State.setDrive_modulation (s : State) (k : UnitId) (d : F32) (j : UnitId) :
    (s.setDrive k d).modulation j = s.modulation j := rfl
@[simp] theorem State.setDrive_pole (s : State) (k : UnitId) (d : F32) (j : UnitId) :
    (s.setDrive k d).pole j = s.pole j := rfl
@[simp] theorem State.setDrive_osc (s : State) (k : UnitId) (d : F32) (j : UnitId) :
    (s.setDrive k d).osc j = s.osc j := rfl
@[simp] theorem State.setDrive_dezip (s : State) (k : UnitId) (d : F32) (j : UnitId) :
    (s.setDrive k d).dezip j = s.dezip j := rfl
@[simp] theorem State.setDrive_agent (s : State) (k : UnitId) (d : F32) (who : Nat) :
    (s.setDrive k d).agent who = s.agent who := rfl
@[simp] theorem State.setDrive_nan (s : State) (k : UnitId) (d : F32) (site : Nat) :
    (s.setDrive k d).nan site = s.nan site := rfl
@[simp] theorem State.setDrive_bufRead (s : State) (k : UnitId) (d : F32) (j : UnitId) (cell : Nat) :
    (s.setDrive k d).bufRead j cell = s.bufRead j cell := rfl
@[simp] theorem State.setDrive_statusWord (s : State) (k : UnitId) (d : F32) :
    (s.setDrive k d).statusWord = s.statusWord := rfl

/-! ## `setOsc` -/

@[simp] theorem State.setOsc_cfg (s : State) (k : UnitId) (o : Oscillator) : (s.setOsc k o).cfg = s.cfg := rfl
@[simp] theorem State.setOsc_reserved (s : State) (k : UnitId) (o : Oscillator) : (s.setOsc k o).reserved = s.reserved := rfl
@[simp] theorem State.setOsc_created (s : State) (k : UnitId) (o : Oscillator) : (s.setOsc k o).created = s.created := rfl
@[simp] theorem State.setOsc_ready (s : State) (k : UnitId) (o : Oscillator) : (s.setOsc k o).ready = s.ready := rfl
@[simp] theorem State.setOsc_faulted (s : State) (k : UnitId) (o : Oscillator) : (s.setOsc k o).faulted = s.faulted := rfl
@[simp] theorem State.setOsc_faultCode (s : State) (k : UnitId) (o : Oscillator) : (s.setOsc k o).faultCode = s.faultCode := rfl
@[simp] theorem State.setOsc_params (s : State) (k : UnitId) (o : Oscillator) : (s.setOsc k o).params = s.params := rfl
@[simp] theorem State.setOsc_arena (s : State) (k : UnitId) (o : Oscillator) : (s.setOsc k o).arena = s.arena := rfl
@[simp] theorem State.setOsc_delays (s : State) (k : UnitId) (o : Oscillator) : (s.setOsc k o).delays = s.delays := rfl
@[simp] theorem State.setOsc_alphas (s : State) (k : UnitId) (o : Oscillator) : (s.setOsc k o).alphas = s.alphas := rfl
@[simp] theorem State.setOsc_mods (s : State) (k : UnitId) (o : Oscillator) : (s.setOsc k o).mods = s.mods := rfl
@[simp] theorem State.setOsc_poles (s : State) (k : UnitId) (o : Oscillator) : (s.setOsc k o).poles = s.poles := rfl
@[simp] theorem State.setOsc_drives (s : State) (k : UnitId) (o : Oscillator) : (s.setOsc k o).drives = s.drives := rfl
@[simp] theorem State.setOsc_oscs (s : State) (k : UnitId) (o : Oscillator) : (s.setOsc k o).oscs = bankSet lfoSlot s.oscs k o := rfl
@[simp] theorem State.setOsc_dezips (s : State) (k : UnitId) (o : Oscillator) : (s.setOsc k o).dezips = s.dezips := rfl
@[simp] theorem State.setOsc_xfbA (s : State) (k : UnitId) (o : Oscillator) : (s.setOsc k o).xfbA = s.xfbA := rfl
@[simp] theorem State.setOsc_xfbB (s : State) (k : UnitId) (o : Oscillator) : (s.setOsc k o).xfbB = s.xfbB := rfl
@[simp] theorem State.setOsc_agents (s : State) (k : UnitId) (o : Oscillator) : (s.setOsc k o).agents = s.agents := rfl
@[simp] theorem State.setOsc_cur (s : State) (k : UnitId) (o : Oscillator) : (s.setOsc k o).cur = s.cur := rfl
@[simp] theorem State.setOsc_draws (s : State) (k : UnitId) (o : Oscillator) : (s.setOsc k o).draws = s.draws := rfl
@[simp] theorem State.setOsc_delay (s : State) (k : UnitId) (o : Oscillator) (j : UnitId) :
    (s.setOsc k o).delay j = s.delay j := rfl
@[simp] theorem State.setOsc_alpha (s : State) (k : UnitId) (o : Oscillator) (j : UnitId) :
    (s.setOsc k o).alpha j = s.alpha j := rfl
@[simp] theorem State.setOsc_modulation (s : State) (k : UnitId) (o : Oscillator) (j : UnitId) :
    (s.setOsc k o).modulation j = s.modulation j := rfl
@[simp] theorem State.setOsc_pole (s : State) (k : UnitId) (o : Oscillator) (j : UnitId) :
    (s.setOsc k o).pole j = s.pole j := rfl
@[simp] theorem State.setOsc_drive (s : State) (k : UnitId) (o : Oscillator) (j : UnitId) :
    (s.setOsc k o).drive j = s.drive j := rfl
@[simp] theorem State.setOsc_dezip (s : State) (k : UnitId) (o : Oscillator) (j : UnitId) :
    (s.setOsc k o).dezip j = s.dezip j := rfl
@[simp] theorem State.setOsc_agent (s : State) (k : UnitId) (o : Oscillator) (who : Nat) :
    (s.setOsc k o).agent who = s.agent who := rfl
@[simp] theorem State.setOsc_nan (s : State) (k : UnitId) (o : Oscillator) (site : Nat) :
    (s.setOsc k o).nan site = s.nan site := rfl
@[simp] theorem State.setOsc_bufRead (s : State) (k : UnitId) (o : Oscillator) (j : UnitId) (cell : Nat) :
    (s.setOsc k o).bufRead j cell = s.bufRead j cell := rfl
@[simp] theorem State.setOsc_statusWord (s : State) (k : UnitId) (o : Oscillator) :
    (s.setOsc k o).statusWord = s.statusWord := rfl

/-! ## `setDezip` -/

@[simp] theorem State.setDezip_cfg (s : State) (k : UnitId) (d : Dezipper) : (s.setDezip k d).cfg = s.cfg := rfl
@[simp] theorem State.setDezip_reserved (s : State) (k : UnitId) (d : Dezipper) : (s.setDezip k d).reserved = s.reserved := rfl
@[simp] theorem State.setDezip_created (s : State) (k : UnitId) (d : Dezipper) : (s.setDezip k d).created = s.created := rfl
@[simp] theorem State.setDezip_ready (s : State) (k : UnitId) (d : Dezipper) : (s.setDezip k d).ready = s.ready := rfl
@[simp] theorem State.setDezip_faulted (s : State) (k : UnitId) (d : Dezipper) : (s.setDezip k d).faulted = s.faulted := rfl
@[simp] theorem State.setDezip_faultCode (s : State) (k : UnitId) (d : Dezipper) : (s.setDezip k d).faultCode = s.faultCode := rfl
@[simp] theorem State.setDezip_params (s : State) (k : UnitId) (d : Dezipper) : (s.setDezip k d).params = s.params := rfl
@[simp] theorem State.setDezip_arena (s : State) (k : UnitId) (d : Dezipper) : (s.setDezip k d).arena = s.arena := rfl
@[simp] theorem State.setDezip_delays (s : State) (k : UnitId) (d : Dezipper) : (s.setDezip k d).delays = s.delays := rfl
@[simp] theorem State.setDezip_alphas (s : State) (k : UnitId) (d : Dezipper) : (s.setDezip k d).alphas = s.alphas := rfl
@[simp] theorem State.setDezip_mods (s : State) (k : UnitId) (d : Dezipper) : (s.setDezip k d).mods = s.mods := rfl
@[simp] theorem State.setDezip_poles (s : State) (k : UnitId) (d : Dezipper) : (s.setDezip k d).poles = s.poles := rfl
@[simp] theorem State.setDezip_drives (s : State) (k : UnitId) (d : Dezipper) : (s.setDezip k d).drives = s.drives := rfl
@[simp] theorem State.setDezip_oscs (s : State) (k : UnitId) (d : Dezipper) : (s.setDezip k d).oscs = s.oscs := rfl
@[simp] theorem State.setDezip_dezips (s : State) (k : UnitId) (d : Dezipper) : (s.setDezip k d).dezips = bankSet dzSlot s.dezips k d := rfl
@[simp] theorem State.setDezip_xfbA (s : State) (k : UnitId) (d : Dezipper) : (s.setDezip k d).xfbA = s.xfbA := rfl
@[simp] theorem State.setDezip_xfbB (s : State) (k : UnitId) (d : Dezipper) : (s.setDezip k d).xfbB = s.xfbB := rfl
@[simp] theorem State.setDezip_agents (s : State) (k : UnitId) (d : Dezipper) : (s.setDezip k d).agents = s.agents := rfl
@[simp] theorem State.setDezip_cur (s : State) (k : UnitId) (d : Dezipper) : (s.setDezip k d).cur = s.cur := rfl
@[simp] theorem State.setDezip_draws (s : State) (k : UnitId) (d : Dezipper) : (s.setDezip k d).draws = s.draws := rfl
@[simp] theorem State.setDezip_delay (s : State) (k : UnitId) (d : Dezipper) (j : UnitId) :
    (s.setDezip k d).delay j = s.delay j := rfl
@[simp] theorem State.setDezip_alpha (s : State) (k : UnitId) (d : Dezipper) (j : UnitId) :
    (s.setDezip k d).alpha j = s.alpha j := rfl
@[simp] theorem State.setDezip_modulation (s : State) (k : UnitId) (d : Dezipper) (j : UnitId) :
    (s.setDezip k d).modulation j = s.modulation j := rfl
@[simp] theorem State.setDezip_pole (s : State) (k : UnitId) (d : Dezipper) (j : UnitId) :
    (s.setDezip k d).pole j = s.pole j := rfl
@[simp] theorem State.setDezip_drive (s : State) (k : UnitId) (d : Dezipper) (j : UnitId) :
    (s.setDezip k d).drive j = s.drive j := rfl
@[simp] theorem State.setDezip_osc (s : State) (k : UnitId) (d : Dezipper) (j : UnitId) :
    (s.setDezip k d).osc j = s.osc j := rfl
@[simp] theorem State.setDezip_agent (s : State) (k : UnitId) (d : Dezipper) (who : Nat) :
    (s.setDezip k d).agent who = s.agent who := rfl
@[simp] theorem State.setDezip_nan (s : State) (k : UnitId) (d : Dezipper) (site : Nat) :
    (s.setDezip k d).nan site = s.nan site := rfl
@[simp] theorem State.setDezip_bufRead (s : State) (k : UnitId) (d : Dezipper) (j : UnitId) (cell : Nat) :
    (s.setDezip k d).bufRead j cell = s.bufRead j cell := rfl
@[simp] theorem State.setDezip_statusWord (s : State) (k : UnitId) (d : Dezipper) :
    (s.setDezip k d).statusWord = s.statusWord := rfl

/-! ## `setMem` -/

@[simp] theorem State.setMem_cfg (s : State) (m : Memory) : (s.setMem m).cfg = s.cfg := rfl
@[simp] theorem State.setMem_reserved (s : State) (m : Memory) : (s.setMem m).reserved = s.reserved := rfl
@[simp] theorem State.setMem_created (s : State) (m : Memory) : (s.setMem m).created = s.created := rfl
@[simp] theorem State.setMem_ready (s : State) (m : Memory) : (s.setMem m).ready = s.ready := rfl
@[simp] theorem State.setMem_faulted (s : State) (m : Memory) : (s.setMem m).faulted = s.faulted := rfl
@[simp] theorem State.setMem_faultCode (s : State) (m : Memory) : (s.setMem m).faultCode = s.faultCode := rfl
@[simp] theorem State.setMem_params (s : State) (m : Memory) : (s.setMem m).params = s.params := rfl
@[simp] theorem State.setMem_arena (s : State) (m : Memory) : (s.setMem m).arena = { s.arena with mem := m } := rfl
@[simp] theorem State.setMem_delays (s : State) (m : Memory) : (s.setMem m).delays = s.delays := rfl
@[simp] theorem State.setMem_alphas (s : State) (m : Memory) : (s.setMem m).alphas = s.alphas := rfl
@[simp] theorem State.setMem_mods (s : State) (m : Memory) : (s.setMem m).mods = s.mods := rfl
@[simp] theorem State.setMem_poles (s : State) (m : Memory) : (s.setMem m).poles = s.poles := rfl
@[simp] theorem State.setMem_drives (s : State) (m : Memory) : (s.setMem m).drives = s.drives := rfl
@[simp] theorem State.setMem_oscs (s : State) (m : Memory) : (s.setMem m).oscs = s.oscs := rfl
@[simp] theorem State.setMem_dezips (s : State) (m : Memory) : (s.setMem m).dezips = s.dezips := rfl
@[simp] theorem State.setMem_xfbA (s : State) (m : Memory) : (s.setMem m).xfbA = s.xfbA := rfl
@[simp] theorem State.setMem_xfbB (s : State) (m : Memory) : (s.setMem m).xfbB = s.xfbB := rfl
@[simp] theorem State.setMem_agents (s : State) (m : Memory) : (s.setMem m).agents = s.agents := rfl
@[simp] theorem State.setMem_cur (s : State) (m : Memory) : (s.setMem m).cur = s.cur := rfl
@[simp] theorem State.setMem_draws (s : State) (m : Memory) : (s.setMem m).draws = s.draws := rfl
@[simp] theorem State.setMem_delay (s : State) (m : Memory) (j : UnitId) :
    (s.setMem m).delay j = s.delay j := rfl
@[simp] theorem State.setMem_alpha (s : State) (m : Memory) (j : UnitId) :
    (s.setMem m).alpha j = s.alpha j := rfl
@[simp] theorem State.setMem_modulation (s : State) (m : Memory) (j : UnitId) :
    (s.setMem m).modulation j = s.modulation j := rfl
@[simp] theorem State.setMem_pole (s : State) (m : Memory) (j : UnitId) :
    (s.setMem m).pole j = s.pole j := rfl
@[simp] theorem State.setMem_drive (s : State) (m : Memory) (j : UnitId) :
    (s.setMem m).drive j = s.drive j := rfl
@[simp] theorem State.setMem_osc (s : State) (m : Memory) (j : UnitId) :
    (s.setMem m).osc j = s.osc j := rfl
@[simp] theorem State.setMem_dezip (s : State) (m : Memory) (j : UnitId) :
    (s.setMem m).dezip j = s.dezip j := rfl
@[simp] theorem State.setMem_agent (s : State) (m : Memory) (who : Nat) :
    (s.setMem m).agent who = s.agent who := rfl
@[simp] theorem State.setMem_nan (s : State) (m : Memory) (site : Nat) :
    (s.setMem m).nan site = s.nan site := rfl
@[simp] theorem State.setMem_statusWord (s : State) (m : Memory) :
    (s.setMem m).statusWord = s.statusWord := rfl

/-! ## `bufWrite` -/

@[simp] theorem State.bufWrite_cfg (s : State) (k : UnitId) (i : Nat) (v : F32) : (s.bufWrite k i v).cfg = s.cfg := rfl
@[simp] theorem State.bufWrite_reserved (s : State) (k : UnitId) (i : Nat) (v : F32) : (s.bufWrite k i v).reserved = s.reserved := rfl
@[simp] theorem State.bufWrite_created (s : State) (k : UnitId) (i : Nat) (v : F32) : (s.bufWrite k i v).created = s.created := rfl
@[simp] theorem State.bufWrite_ready (s : State) (k : UnitId) (i : Nat) (v : F32) : (s.bufWrite k i v).ready = s.ready := rfl
@[simp] theorem State.bufWrite_faulted (s : State) (k : UnitId) (i : Nat) (v : F32) : (s.bufWrite k i v).faulted = s.faulted := rfl
@[simp] theorem State.bufWrite_faultCode (s : State) (k : UnitId) (i : Nat) (v : F32) : (s.bufWrite k i v).faultCode = s.faultCode := rfl
@[simp] theorem State.bufWrite_params (s : State) (k : UnitId) (i : Nat) (v : F32) : (s.bufWrite k i v).params = s.params := rfl
@[simp] theorem State.bufWrite_arena (s : State) (k : UnitId) (i : Nat) (v : F32) : (s.bufWrite k i v).arena = { s.arena with mem := memWriteWord s.arena.mem (s.cellAddr k i) v } := rfl
@[simp] theorem State.bufWrite_delays (s : State) (k : UnitId) (i : Nat) (v : F32) : (s.bufWrite k i v).delays = s.delays := rfl
@[simp] theorem State.bufWrite_alphas (s : State) (k : UnitId) (i : Nat) (v : F32) : (s.bufWrite k i v).alphas = s.alphas := rfl
@[simp] theorem State.bufWrite_mods (s : State) (k : UnitId) (i : Nat) (v : F32) : (s.bufWrite k i v).mods = s.mods := rfl
@[simp] theorem State.bufWrite_poles (s : State) (k : UnitId) (i : Nat) (v : F32) : (s.bufWrite k i v).poles = s.poles := rfl
@[simp] theorem State.bufWrite_drives (s : State) (k : UnitId) (i : Nat) (v : F32) : (s.bufWrite k i v).drives = s.drives := rfl
@[simp] theorem State.bufWrite_oscs (s : State) (k : UnitId) (i : Nat) (v : F32) : (s.bufWrite k i v).oscs = s.oscs := rfl
@[simp] theorem State.bufWrite_dezips (s : State) (k : UnitId) (i : Nat) (v : F32) : (s.bufWrite k i v).dezips = s.dezips := rfl
@[simp] theorem State.bufWrite_xfbA (s : State) (k : UnitId) (i : Nat) (v : F32) : (s.bufWrite k i v).xfbA = s.xfbA := rfl
@[simp] theorem State.bufWrite_xfbB (s : State) (k : UnitId) (i : Nat) (v : F32) : (s.bufWrite k i v).xfbB = s.xfbB := rfl
@[simp] theorem State.bufWrite_agents (s : State) (k : UnitId) (i : Nat) (v : F32) : (s.bufWrite k i v).agents = s.agents := rfl
@[simp] theorem State.bufWrite_cur (s : State) (k : UnitId) (i : Nat) (v : F32) : (s.bufWrite k i v).cur = s.cur := rfl
@[simp] theorem State.bufWrite_draws (s : State) (k : UnitId) (i : Nat) (v : F32) : (s.bufWrite k i v).draws = s.draws := rfl
@[simp] theorem State.bufWrite_delay (s : State) (k : UnitId) (i : Nat) (v : F32) (j : UnitId) :
    (s.bufWrite k i v).delay j = s.delay j := rfl
@[simp] theorem State.bufWrite_alpha (s : State) (k : UnitId) (i : Nat) (v : F32) (j : UnitId) :
    (s.bufWrite k i v).alpha j = s.alpha j := rfl
@[simp] theorem State.bufWrite_modulation (s : State) (k : UnitId) (i : Nat) (v : F32) (j : UnitId) :
    (s.bufWrite k i v).modulation j = s.modulation j := rfl
@[simp] theorem State.bufWrite_pole (s : State) (k : UnitId) (i : Nat) (v : F32) (j : UnitId) :
    (s.bufWrite k i v).pole j = s.pole j := rfl
@[simp] theorem State.bufWrite_drive (s : State) (k : UnitId) (i : Nat) (v : F32) (j : UnitId) :
    (s.bufWrite k i v).drive j = s.drive j := rfl
@[simp] theorem State.bufWrite_osc (s : State) (k : UnitId) (i : Nat) (v : F32) (j : UnitId) :
    (s.bufWrite k i v).osc j = s.osc j := rfl
@[simp] theorem State.bufWrite_dezip (s : State) (k : UnitId) (i : Nat) (v : F32) (j : UnitId) :
    (s.bufWrite k i v).dezip j = s.dezip j := rfl
@[simp] theorem State.bufWrite_agent (s : State) (k : UnitId) (i : Nat) (v : F32) (who : Nat) :
    (s.bufWrite k i v).agent who = s.agent who := rfl
@[simp] theorem State.bufWrite_nan (s : State) (k : UnitId) (i : Nat) (v : F32) (site : Nat) :
    (s.bufWrite k i v).nan site = s.nan site := rfl
@[simp] theorem State.bufWrite_statusWord (s : State) (k : UnitId) (i : Nat) (v : F32) :
    (s.bufWrite k i v).statusWord = s.statusWord := rfl

/-! ## `setAgent` -/

@[simp] theorem State.setAgent_cfg (s : State) (a : Nat) (ag : Agent) : (s.setAgent a ag).cfg = s.cfg := rfl
@[simp] theorem State.setAgent_reserved (s : State) (a : Nat) (ag : Agent) : (s.setAgent a ag).reserved = s.reserved := rfl
@[simp] theorem State.setAgent_created (s : State) (a : Nat) (ag : Agent) : (s.setAgent a ag).created = s.created := rfl
@[simp] theorem State.setAgent_ready (s : State) (a : Nat) (ag : Agent) : (s.setAgent a ag).ready = s.ready := rfl
@[simp] theorem State.setAgent_faulted (s : State) (a : Nat) (ag : Agent) : (s.setAgent a ag).faulted = s.faulted := rfl
@[simp] theorem State.setAgent_faultCode (s : State) (a : Nat) (ag : Agent) : (s.setAgent a ag).faultCode = s.faultCode := rfl
@[simp] theorem State.setAgent_params (s : State) (a : Nat) (ag : Agent) : (s.setAgent a ag).params = s.params := rfl
@[simp] theorem State.setAgent_arena (s : State) (a : Nat) (ag : Agent) : (s.setAgent a ag).arena = s.arena := rfl
@[simp] theorem State.setAgent_delays (s : State) (a : Nat) (ag : Agent) : (s.setAgent a ag).delays = s.delays := rfl
@[simp] theorem State.setAgent_alphas (s : State) (a : Nat) (ag : Agent) : (s.setAgent a ag).alphas = s.alphas := rfl
@[simp] theorem State.setAgent_mods (s : State) (a : Nat) (ag : Agent) : (s.setAgent a ag).mods = s.mods := rfl
@[simp] theorem State.setAgent_poles (s : State) (a : Nat) (ag : Agent) : (s.setAgent a ag).poles = s.poles := rfl
@[simp] theorem State.setAgent_drives (s : State) (a : Nat) (ag : Agent) : (s.setAgent a ag).drives = s.drives := rfl
@[simp] theorem State.setAgent_oscs (s : State) (a : Nat) (ag : Agent) : (s.setAgent a ag).oscs = s.oscs := rfl
@[simp] theorem State.setAgent_dezips (s : State) (a : Nat) (ag : Agent) : (s.setAgent a ag).dezips = s.dezips := rfl
@[simp] theorem State.setAgent_xfbA (s : State) (a : Nat) (ag : Agent) : (s.setAgent a ag).xfbA = s.xfbA := rfl
@[simp] theorem State.setAgent_xfbB (s : State) (a : Nat) (ag : Agent) : (s.setAgent a ag).xfbB = s.xfbB := rfl
@[simp] theorem State.setAgent_agents (s : State) (a : Nat) (ag : Agent) : (s.setAgent a ag).agents = sparsePut Agent.fresh s.agents a ag := rfl
@[simp] theorem State.setAgent_cur (s : State) (a : Nat) (ag : Agent) : (s.setAgent a ag).cur = s.cur := rfl
@[simp] theorem State.setAgent_draws (s : State) (a : Nat) (ag : Agent) : (s.setAgent a ag).draws = s.draws := rfl
@[simp] theorem State.setAgent_delay (s : State) (a : Nat) (ag : Agent) (j : UnitId) :
    (s.setAgent a ag).delay j = s.delay j := rfl
@[simp] theorem State.setAgent_alpha (s : State) (a : Nat) (ag : Agent) (j : UnitId) :
    (s.setAgent a ag).alpha j = s.alpha j := rfl
@[simp] theorem State.setAgent_modulation (s : State) (a : Nat) (ag : Agent) (j : UnitId) :
    (s.setAgent a ag).modulation j = s.modulation j := rfl
@[simp] theorem State.setAgent_pole (s : State) (a : Nat) (ag : Agent) (j : UnitId) :
    (s.setAgent a ag).pole j = s.pole j := rfl
@[simp] theorem State.setAgent_drive (s : State) (a : Nat) (ag : Agent) (j : UnitId) :
    (s.setAgent a ag).drive j = s.drive j := rfl
@[simp] theorem State.setAgent_osc (s : State) (a : Nat) (ag : Agent) (j : UnitId) :
    (s.setAgent a ag).osc j = s.osc j := rfl
@[simp] theorem State.setAgent_dezip (s : State) (a : Nat) (ag : Agent) (j : UnitId) :
    (s.setAgent a ag).dezip j = s.dezip j := rfl
@[simp] theorem State.setAgent_nan (s : State) (a : Nat) (ag : Agent) (site : Nat) :
    (s.setAgent a ag).nan site = s.nan site := rfl
@[simp] theorem State.setAgent_bufRead (s : State) (a : Nat) (ag : Agent) (j : UnitId) (cell : Nat) :
    (s.setAgent a ag).bufRead j cell = s.bufRead j cell := rfl
@[simp] theorem State.setAgent_statusWord (s : State) (a : Nat) (ag : Agent) :
    (s.setAgent a ag).statusWord = s.statusWord := rfl

/-! ## `respond` -/

@[simp] theorem State.respond_cfg (s : State) (v : Word) : (s.respond v).cfg = s.cfg := rfl
@[simp] theorem State.respond_reserved (s : State) (v : Word) : (s.respond v).reserved = s.reserved := rfl
@[simp] theorem State.respond_created (s : State) (v : Word) : (s.respond v).created = s.created := rfl
@[simp] theorem State.respond_ready (s : State) (v : Word) : (s.respond v).ready = s.ready := rfl
@[simp] theorem State.respond_faulted (s : State) (v : Word) : (s.respond v).faulted = s.faulted := rfl
@[simp] theorem State.respond_faultCode (s : State) (v : Word) : (s.respond v).faultCode = s.faultCode := rfl
@[simp] theorem State.respond_params (s : State) (v : Word) : (s.respond v).params = s.params := rfl
@[simp] theorem State.respond_arena (s : State) (v : Word) : (s.respond v).arena = s.arena := rfl
@[simp] theorem State.respond_delays (s : State) (v : Word) : (s.respond v).delays = s.delays := rfl
@[simp] theorem State.respond_alphas (s : State) (v : Word) : (s.respond v).alphas = s.alphas := rfl
@[simp] theorem State.respond_mods (s : State) (v : Word) : (s.respond v).mods = s.mods := rfl
@[simp] theorem State.respond_poles (s : State) (v : Word) : (s.respond v).poles = s.poles := rfl
@[simp] theorem State.respond_drives (s : State) (v : Word) : (s.respond v).drives = s.drives := rfl
@[simp] theorem State.respond_oscs (s : State) (v : Word) : (s.respond v).oscs = s.oscs := rfl
@[simp] theorem State.respond_dezips (s : State) (v : Word) : (s.respond v).dezips = s.dezips := rfl
@[simp] theorem State.respond_xfbA (s : State) (v : Word) : (s.respond v).xfbA = s.xfbA := rfl
@[simp] theorem State.respond_xfbB (s : State) (v : Word) : (s.respond v).xfbB = s.xfbB := rfl
@[simp] theorem State.respond_cur (s : State) (v : Word) : (s.respond v).cur = s.cur := rfl
@[simp] theorem State.respond_draws (s : State) (v : Word) : (s.respond v).draws = s.draws := rfl
@[simp] theorem State.respond_delay (s : State) (v : Word) (j : UnitId) :
    (s.respond v).delay j = s.delay j := rfl
@[simp] theorem State.respond_alpha (s : State) (v : Word) (j : UnitId) :
    (s.respond v).alpha j = s.alpha j := rfl
@[simp] theorem State.respond_modulation (s : State) (v : Word) (j : UnitId) :
    (s.respond v).modulation j = s.modulation j := rfl
@[simp] theorem State.respond_pole (s : State) (v : Word) (j : UnitId) :
    (s.respond v).pole j = s.pole j := rfl
@[simp] theorem State.respond_drive (s : State) (v : Word) (j : UnitId) :
    (s.respond v).drive j = s.drive j := rfl
@[simp] theorem State.respond_osc (s : State) (v : Word) (j : UnitId) :
    (s.respond v).osc j = s.osc j := rfl
@[simp] theorem State.respond_dezip (s : State) (v : Word) (j : UnitId) :
    (s.respond v).dezip j = s.dezip j := rfl
@[simp] theorem State.respond_nan (s : State) (v : Word) (site : Nat) :
    (s.respond v).nan site = s.nan site := rfl
@[simp] theorem State.respond_bufRead (s : State) (v : Word) (j : UnitId) (cell : Nat) :
    (s.respond v).bufRead j cell = s.bufRead j cell := rfl
@[simp] theorem State.respond_statusWord (s : State) (v : Word) :
    (s.respond v).statusWord = s.statusWord := rfl

/-! ## `raise` -/

@[simp] theorem State.raise_cfg (s : State) (c : FaultCode) : (s.raise c).cfg = s.cfg := rfl
@[simp] theorem State.raise_reserved (s : State) (c : FaultCode) : (s.raise c).reserved = s.reserved := rfl
@[simp] theorem State.raise_created (s : State) (c : FaultCode) : (s.raise c).created = s.created := rfl
@[simp] theorem State.raise_ready (s : State) (c : FaultCode) : (s.raise c).ready = s.ready := rfl
@[simp] theorem State.raise_faulted (s : State) (c : FaultCode) : (s.raise c).faulted = true := rfl
@[simp] theorem State.raise_faultCode (s : State) (c : FaultCode) : (s.raise c).faultCode = c := rfl
@[simp] theorem State.raise_params (s : State) (c : FaultCode) : (s.raise c).params = s.params := rfl
@[simp] theorem State.raise_arena (s : State) (c : FaultCode) : (s.raise c).arena = s.arena := rfl
@[simp] theorem State.raise_delays (s : State) (c : FaultCode) : (s.raise c).delays = s.delays := rfl
@[simp] theorem State.raise_alphas (s : State) (c : FaultCode) : (s.raise c).alphas = s.alphas := rfl
@[simp] theorem State.raise_mods (s : State) (c : FaultCode) : (s.raise c).mods = s.mods := rfl
@[simp] theorem State.raise_poles (s : State) (c : FaultCode) : (s.raise c).poles = s.poles := rfl
@[simp] theorem State.raise_drives (s : State) (c : FaultCode) : (s.raise c).drives = s.drives := rfl
@[simp] theorem State.raise_oscs (s : State) (c : FaultCode) : (s.raise c).oscs = s.oscs := rfl
@[simp] theorem State.raise_dezips (s : State) (c : FaultCode) : (s.raise c).dezips = s.dezips := rfl
@[simp] theorem State.raise_xfbA (s : State) (c : FaultCode) : (s.raise c).xfbA = s.xfbA := rfl
@[simp] theorem State.raise_xfbB (s : State) (c : FaultCode) : (s.raise c).xfbB = s.xfbB := rfl
@[simp] theorem State.raise_agents (s : State) (c : FaultCode) : (s.raise c).agents = s.agents := rfl
@[simp] theorem State.raise_cur (s : State) (c : FaultCode) : (s.raise c).cur = s.cur := rfl
@[simp] theorem State.raise_draws (s : State) (c : FaultCode) : (s.raise c).draws = s.draws := rfl
@[simp] theorem State.raise_delay (s : State) (c : FaultCode) (j : UnitId) :
    (s.raise c).delay j = s.delay j := rfl
@[simp] theorem State.raise_alpha (s : State) (c : FaultCode) (j : UnitId) :
    (s.raise c).alpha j = s.alpha j := rfl
@[simp] theorem State.raise_modulation (s : State) (c : FaultCode) (j : UnitId) :
    (s.raise c).modulation j = s.modulation j := rfl
@[simp] theorem State.raise_pole (s : State) (c : FaultCode) (j : UnitId) :
    (s.raise c).pole j = s.pole j := rfl
@[simp] theorem State.raise_drive (s : State) (c : FaultCode) (j : UnitId) :
    (s.raise c).drive j = s.drive j := rfl
@[simp] theorem State.raise_osc (s : State) (c : FaultCode) (j : UnitId) :
    (s.raise c).osc j = s.osc j := rfl
@[simp] theorem State.raise_dezip (s : State) (c : FaultCode) (j : UnitId) :
    (s.raise c).dezip j = s.dezip j := rfl
@[simp] theorem State.raise_agent (s : State) (c : FaultCode) (who : Nat) :
    (s.raise c).agent who = s.agent who := rfl
@[simp] theorem State.raise_nan (s : State) (c : FaultCode) (site : Nat) :
    (s.raise c).nan site = s.nan site := rfl
@[simp] theorem State.raise_bufRead (s : State) (c : FaultCode) (j : UnitId) (cell : Nat) :
    (s.raise c).bufRead j cell = s.bufRead j cell := rfl

/-! ## `writeParam` -/

@[simp] theorem State.writeParam_cfg (s : State) (p : Param) (v : Word) : (s.writeParam p v).cfg = s.cfg := rfl
@[simp] theorem State.writeParam_reserved (s : State) (p : Param) (v : Word) : (s.writeParam p v).reserved = s.reserved := rfl
@[simp] theorem State.writeParam_created (s : State) (p : Param) (v : Word) : (s.writeParam p v).created = s.created := rfl
@[simp] theorem State.writeParam_ready (s : State) (p : Param) (v : Word) : (s.writeParam p v).ready = s.ready := rfl
@[simp] theorem State.writeParam_faulted (s : State) (p : Param) (v : Word) : (s.writeParam p v).faulted = s.faulted := rfl
@[simp] theorem State.writeParam_faultCode (s : State) (p : Param) (v : Word) : (s.writeParam p v).faultCode = s.faultCode := rfl
@[simp] theorem State.writeParam_params (s : State) (p : Param) (v : Word) : (s.writeParam p v).params = setParamValue s.params p v := rfl
@[simp] theorem State.writeParam_arena (s : State) (p : Param) (v : Word) : (s.writeParam p v).arena = s.arena := rfl
@[simp] theorem State.writeParam_delays (s : State) (p : Param) (v : Word) : (s.writeParam p v).delays = s.delays := rfl
@[simp] theorem State.writeParam_alphas (s : State) (p : Param) (v : Word) : (s.writeParam p v).alphas = s.alphas := rfl
@[simp] theorem State.writeParam_mods (s : State) (p : Param) (v : Word) : (s.writeParam p v).mods = s.mods := rfl
@[simp] theorem State.writeParam_poles (s : State) (p : Param) (v : Word) : (s.writeParam p v).poles = s.poles := rfl
@[simp] theorem State.writeParam_drives (s : State) (p : Param) (v : Word) : (s.writeParam p v).drives = s.drives := rfl
@[simp] theorem State.writeParam_oscs (s : State) (p : Param) (v : Word) : (s.writeParam p v).oscs = s.oscs := rfl
@[simp] theorem State.writeParam_dezips (s : State) (p : Param) (v : Word) : (s.writeParam p v).dezips = s.dezips := rfl
@[simp] theorem State.writeParam_xfbA (s : State) (p : Param) (v : Word) : (s.writeParam p v).xfbA = s.xfbA := rfl
@[simp] theorem State.writeParam_xfbB (s : State) (p : Param) (v : Word) : (s.writeParam p v).xfbB = s.xfbB := rfl
@[simp] theorem State.writeParam_agents (s : State) (p : Param) (v : Word) : (s.writeParam p v).agents = s.agents := rfl
@[simp] theorem State.writeParam_cur (s : State) (p : Param) (v : Word) : (s.writeParam p v).cur = s.cur := rfl
@[simp] theorem State.writeParam_draws (s : State) (p : Param) (v : Word) : (s.writeParam p v).draws = s.draws := rfl
@[simp] theorem State.writeParam_delay (s : State) (p : Param) (v : Word) (j : UnitId) :
    (s.writeParam p v).delay j = s.delay j := rfl
@[simp] theorem State.writeParam_alpha (s : State) (p : Param) (v : Word) (j : UnitId) :
    (s.writeParam p v).alpha j = s.alpha j := rfl
@[simp] theorem State.writeParam_modulation (s : State) (p : Param) (v : Word) (j : UnitId) :
    (s.writeParam p v).modulation j = s.modulation j := rfl
@[simp] theorem State.writeParam_pole (s : State) (p : Param) (v : Word) (j : UnitId) :
    (s.writeParam p v).pole j = s.pole j := rfl
@[simp] theorem State.writeParam_drive (s : State) (p : Param) (v : Word) (j : UnitId) :
    (s.writeParam p v).drive j = s.drive j := rfl
@[simp] theorem State.writeParam_osc (s : State) (p : Param) (v : Word) (j : UnitId) :
    (s.writeParam p v).osc j = s.osc j := rfl
@[simp] theorem State.writeParam_dezip (s : State) (p : Param) (v : Word) (j : UnitId) :
    (s.writeParam p v).dezip j = s.dezip j := rfl
@[simp] theorem State.writeParam_agent (s : State) (p : Param) (v : Word) (who : Nat) :
    (s.writeParam p v).agent who = s.agent who := rfl
@[simp] theorem State.writeParam_nan (s : State) (p : Param) (v : Word) (site : Nat) :
    (s.writeParam p v).nan site = s.nan site := rfl
@[simp] theorem State.writeParam_bufRead (s : State) (p : Param) (v : Word) (j : UnitId) (cell : Nat) :
    (s.writeParam p v).bufRead j cell = s.bufRead j cell := rfl
@[simp] theorem State.writeParam_statusWord (s : State) (p : Param) (v : Word) :
    (s.writeParam p v).statusWord = s.statusWord := rfl

/-! ## `setFeedback` -/

@[simp] theorem State.setFeedback_cfg (s : State) (a b : F32) : (s.setFeedback a b).cfg = s.cfg := rfl
@[simp] theorem State.setFeedback_reserved (s : State) (a b : F32) : (s.setFeedback a b).reserved = s.reserved := rfl
@[simp] theorem State.setFeedback_created (s : State) (a b : F32) : (s.setFeedback a b).created = s.created := rfl
@[simp] theorem State.setFeedback_ready (s : State) (a b : F32) : (s.setFeedback a b).ready = s.ready := rfl
@[simp] theorem State.setFeedback_faulted (s : State) (a b : F32) : (s.setFeedback a b).faulted = s.faulted := rfl
@[simp] theorem State.setFeedback_faultCode (s : State) (a b : F32) : (s.setFeedback a b).faultCode = s.faultCode := rfl
@[simp] theorem State.setFeedback_params (s : State) (a b : F32) : (s.setFeedback a b).params = s.params := rfl
@[simp] theorem State.setFeedback_arena (s : State) (a b : F32) : (s.setFeedback a b).arena = s.arena := rfl
@[simp] theorem State.setFeedback_delays (s : State) (a b : F32) : (s.setFeedback a b).delays = s.delays := rfl
@[simp] theorem State.setFeedback_alphas (s : State) (a b : F32) : (s.setFeedback a b).alphas = s.alphas := rfl
@[simp] theorem State.setFeedback_mods (s : State) (a b : F32) : (s.setFeedback a b).mods = s.mods := rfl
@[simp] theorem State.setFeedback_poles (s : State) (a b : F32) : (s.setFeedback a b).poles = s.poles := rfl
@[simp] theorem State.setFeedback_drives (s : State) (a b : F32) : (s.setFeedback a b).drives = s.drives := rfl
@[simp] theorem State.setFeedback_oscs (s : State) (a b : F32) : (s.setFeedback a b).oscs = s.oscs := rfl
@[simp] theorem State.setFeedback_dezips (s : State) (a b : F32) : (s.setFeedback a b).dezips = s.dezips := rfl
@[simp] theorem State.setFeedback_xfbA (s : State) (a b : F32) : (s.setFeedback a b).xfbA = a := rfl
@[simp] theorem State.setFeedback_xfbB (s : State) (a b : F32) : (s.setFeedback a b).xfbB = b := rfl
@[simp] theorem State.setFeedback_agents (s : State) (a b : F32) : (s.setFeedback a b).agents = s.agents := rfl
@[simp] theorem State.setFeedback_cur (s : State) (a b : F32) : (s.setFeedback a b).cur = s.cur := rfl
@[simp] theorem State.setFeedback_draws (s : State) (a b : F32) : (s.setFeedback a b).draws = s.draws := rfl
@[simp] theorem State.setFeedback_delay (s : State) (a b : F32) (j : UnitId) :
    (s.setFeedback a b).delay j = s.delay j := rfl
@[simp] theorem State.setFeedback_alpha (s : State) (a b : F32) (j : UnitId) :
    (s.setFeedback a b).alpha j = s.alpha j := rfl
@[simp] theorem State.setFeedback_modulation (s : State) (a b : F32) (j : UnitId) :
    (s.setFeedback a b).modulation j = s.modulation j := rfl
@[simp] theorem State.setFeedback_pole (s : State) (a b : F32) (j : UnitId) :
    (s.setFeedback a b).pole j = s.pole j := rfl
@[simp] theorem State.setFeedback_drive (s : State) (a b : F32) (j : UnitId) :
    (s.setFeedback a b).drive j = s.drive j := rfl
@[simp] theorem State.setFeedback_osc (s : State) (a b : F32) (j : UnitId) :
    (s.setFeedback a b).osc j = s.osc j := rfl
@[simp] theorem State.setFeedback_dezip (s : State) (a b : F32) (j : UnitId) :
    (s.setFeedback a b).dezip j = s.dezip j := rfl
@[simp] theorem State.setFeedback_agent (s : State) (a b : F32) (who : Nat) :
    (s.setFeedback a b).agent who = s.agent who := rfl
@[simp] theorem State.setFeedback_nan (s : State) (a b : F32) (site : Nat) :
    (s.setFeedback a b).nan site = s.nan site := rfl
@[simp] theorem State.setFeedback_bufRead (s : State) (a b : F32) (j : UnitId) (cell : Nat) :
    (s.setFeedback a b).bufRead j cell = s.bufRead j cell := rfl
@[simp] theorem State.setFeedback_statusWord (s : State) (a b : F32) :
    (s.setFeedback a b).statusWord = s.statusWord := rfl

/-! ## `clearFeedback` -/

@[simp] theorem State.clearFeedback_cfg (s : State) : (s.clearFeedback).cfg = s.cfg := rfl
@[simp] theorem State.clearFeedback_reserved (s : State) : (s.clearFeedback).reserved = s.reserved := rfl
@[simp] theorem State.clearFeedback_created (s : State) : (s.clearFeedback).created = s.created := rfl
@[simp] theorem State.clearFeedback_ready (s : State) : (s.clearFeedback).ready = s.ready := rfl
@[simp] theorem State.clearFeedback_faulted (s : State) : (s.clearFeedback).faulted = s.faulted := rfl
@[simp] theorem State.clearFeedback_faultCode (s : State) : (s.clearFeedback).faultCode = s.faultCode := rfl
@[simp] theorem State.clearFeedback_params (s : State) : (s.clearFeedback).params = s.params := rfl
@[simp] theorem State.clearFeedback_arena (s : State) : (s.clearFeedback).arena = s.arena := rfl
@[simp] theorem State.clearFeedback_delays (s : State) : (s.clearFeedback).delays = s.delays := rfl
@[simp] theorem State.clearFeedback_alphas (s : State) : (s.clearFeedback).alphas = s.alphas := rfl
@[simp] theorem State.clearFeedback_mods (s : State) : (s.clearFeedback).mods = s.mods := rfl
@[simp] theorem State.clearFeedback_poles (s : State) : (s.clearFeedback).poles = s.poles := rfl
@[simp] theorem State.clearFeedback_drives (s : State) : (s.clearFeedback).drives = s.drives := rfl
@[simp] theorem State.clearFeedback_oscs (s : State) : (s.clearFeedback).oscs = s.oscs := rfl
@[simp] theorem State.clearFeedback_dezips (s : State) : (s.clearFeedback).dezips = s.dezips := rfl
@[simp] theorem State.clearFeedback_xfbA (s : State) : (s.clearFeedback).xfbA = f0 := rfl
@[simp] theorem State.clearFeedback_xfbB (s : State) : (s.clearFeedback).xfbB = f0 := rfl
@[simp] theorem State.clearFeedback_agents (s : State) : (s.clearFeedback).agents = s.agents := rfl
@[simp] theorem State.clearFeedback_cur (s : State) : (s.clearFeedback).cur = s.cur := rfl
@[simp] theorem State.clearFeedback_draws (s : State) : (s.clearFeedback).draws = s.draws := rfl
@[simp] theorem State.clearFeedback_delay (s : State) (j : UnitId) :
    (s.clearFeedback).delay j = s.delay j := rfl
@[simp] theorem State.clearFeedback_alpha (s : State) (j : UnitId) :
    (s.clearFeedback).alpha j = s.alpha j := rfl
@[simp] theorem State.clearFeedback_modulation (s : State) (j : UnitId) :
    (s.clearFeedback).modulation j = s.modulation j := rfl
@[simp] theorem State.clearFeedback_pole (s : State) (j : UnitId) :
    (s.clearFeedback).pole j = s.pole j := rfl
@[simp] theorem State.clearFeedback_drive (s : State) (j : UnitId) :
    (s.clearFeedback).drive j = s.drive j := rfl
@[simp] theorem State.clearFeedback_osc (s : State) (j : UnitId) :
    (s.clearFeedback).osc j = s.osc j := rfl
@[simp] theorem State.clearFeedback_dezip (s : State) (j : UnitId) :
    (s.clearFeedback).dezip j = s.dezip j := rfl
@[simp] theorem State.clearFeedback_agent (s : State) (who : Nat) :
    (s.clearFeedback).agent who = s.agent who := rfl
@[simp] theorem State.clearFeedback_nan (s : State) (site : Nat) :
    (s.clearFeedback).nan site = s.nan site := rfl
@[simp] theorem State.clearFeedback_bufRead (s : State) (j : UnitId) (cell : Nat) :
    (s.clearFeedback).bufRead j cell = s.bufRead j cell := rfl
@[simp] theorem State.clearFeedback_statusWord (s : State) :
    (s.clearFeedback).statusWord = s.statusWord := rfl

/-! ## The arena's allocation -/

@[simp] theorem State.setMem_cap (s : State) (m : Memory) : (s.setMem m).arena.cap = s.arena.cap := rfl
@[simp] theorem State.setMem_off (s : State) (m : Memory) : (s.setMem m).arena.off = s.arena.off := rfl

/-! ## Reading what was written -/

@[simp] theorem State.setDelay_delay_same (s : State) (k : UnitId) (u : Delay)
    (h : (delaySlot k).isSome = true) : (s.setDelay k u).delay k = u :=
  bankGet_bankSet_same _ _ _ _ _ h

theorem State.setDelay_delay_other (s : State) (j k : UnitId) (u : Delay) (h : k ≠ j) :
    (s.setDelay j u).delay k = s.delay k := bankGet_bankSet_other delaySlot_injective _ _ _ _ _ h

@[simp] theorem State.setAlpha_alpha_same (s : State) (k : UnitId) (a : F32)
    (h : (allpassSlot k).isSome = true) : (s.setAlpha k a).alpha k = a :=
  bankGet_bankSet_same _ _ _ _ _ h

theorem State.setAlpha_alpha_other (s : State) (j k : UnitId) (a : F32) (h : k ≠ j) :
    (s.setAlpha j a).alpha k = s.alpha k := bankGet_bankSet_other allpassSlot_injective _ _ _ _ _ h

@[simp] theorem State.setModulation_modulation_same (s : State) (k : UnitId) (m : Modulation)
    (h : (modSlot k).isSome = true) : (s.setModulation k m).modulation k = m :=
  bankGet_bankSet_same _ _ _ _ _ h

theorem State.setModulation_modulation_other (s : State) (j k : UnitId) (m : Modulation) (h : k ≠ j) :
    (s.setModulation j m).modulation k = s.modulation k :=
  bankGet_bankSet_other modSlot_injective _ _ _ _ _ h

@[simp] theorem State.setPole_pole_same (s : State) (k : UnitId) (p : OnePole)
    (h : (poleSlot k).isSome = true) : (s.setPole k p).pole k = p :=
  bankGet_bankSet_same _ _ _ _ _ h

theorem State.setPole_pole_other (s : State) (j k : UnitId) (p : OnePole) (h : k ≠ j) :
    (s.setPole j p).pole k = s.pole k := bankGet_bankSet_other poleSlot_injective _ _ _ _ _ h

@[simp] theorem State.setDrive_drive_same (s : State) (k : UnitId) (d : F32)
    (h : (satSlot k).isSome = true) : (s.setDrive k d).drive k = d :=
  bankGet_bankSet_same _ _ _ _ _ h

theorem State.setDrive_drive_other (s : State) (j k : UnitId) (d : F32) (h : k ≠ j) :
    (s.setDrive j d).drive k = s.drive k := bankGet_bankSet_other satSlot_injective _ _ _ _ _ h

@[simp] theorem State.setOsc_osc_same (s : State) (k : UnitId) (o : Oscillator)
    (h : (lfoSlot k).isSome = true) : (s.setOsc k o).osc k = o :=
  bankGet_bankSet_same _ _ _ _ _ h

theorem State.setOsc_osc_other (s : State) (j k : UnitId) (o : Oscillator) (h : k ≠ j) :
    (s.setOsc j o).osc k = s.osc k := bankGet_bankSet_other lfoSlot_injective _ _ _ _ _ h

@[simp] theorem State.setDezip_dezip_same (s : State) (k : UnitId) (d : Dezipper)
    (h : (dzSlot k).isSome = true) : (s.setDezip k d).dezip k = d :=
  bankGet_bankSet_same _ _ _ _ _ h

theorem State.setDezip_dezip_other (s : State) (j k : UnitId) (d : Dezipper) (h : k ≠ j) :
    (s.setDezip j d).dezip k = s.dezip k := bankGet_bankSet_other dzSlot_injective _ _ _ _ _ h

@[simp] theorem State.setAgent_agent_same (s : State) (a : Nat) (ag : Agent) :
    (s.setAgent a ag).agent a = ag := sparseGet_put_same _ _ _ _

theorem State.setAgent_agent_other (s : State) (a b : Nat) (ag : Agent) (h : b ≠ a) :
    (s.setAgent a ag).agent b = s.agent b := sparseGet_put_other _ _ _ _ _ h

/-- A response goes to the issuing agent's channel and nowhere else (R32). -/
@[simp] theorem State.respond_agent_cur (s : State) (v : Word) :
    (s.respond v).agent s.cur = { s.agent s.cur with resp := (s.agent s.cur).resp ++ [v] } :=
  sparseGet_put_same _ _ _ _

theorem State.respond_agent_other (s : State) (v : Word) (a : Nat) (h : a ≠ s.cur) :
    (s.respond v).agent a = s.agent a := sparseGet_put_other _ _ _ _ _ h

/-! ## Buffers -/

/-- A cell written reads back (R31). -/
theorem State.bufWrite_bufRead_same (s : State) (k : UnitId) (i : Nat) (v : F32) :
    (s.bufWrite k i v).bufRead k i = v := memReadWord_writeWord_same _ _ _

/-- Another cell of the same buffer is not changed by a write. -/
theorem State.bufWrite_bufRead_other (s : State) (k : UnitId) (i j : Nat) (v : F32) (h : j ≠ i) :
    (s.bufWrite k i v).bufRead k j = s.bufRead k j := by
  refine memReadWord_writeWord_other _ _ _ _ ?_
  show (s.delay k).base + 4 * j + 4 ≤ (s.delay k).base + 4 * i
    ∨ (s.delay k).base + 4 * i + 4 ≤ (s.delay k).base + 4 * j
  omega

end Sys2Proof.Machine
end

