-- ==== Sys2Proof/Laws/Ops.lean ====
section
/-! SUPPORT. What each shared operation can do, said once: the legality checks, the unit steps, free values,
clamping, and taking work from the queues. -/

namespace Sys2Proof.Machine

/-! ## Legality -/

/-- Where an engine-level command gives a next state: its body ran, or LIFECYCLE was raised. -/
theorem engineCommand_next {s t : State} {legal : Bool} {body : Result} :
    s.engineCommand legal body = .next t ↔
      s.faulted = false ∧ (legal = true ∧ body = .next t ∨ legal = false ∧ t = s.raise .lifecycle) := by
  unfold State.engineCommand
  cases s.faulted <;> cases legal <;> simp [eq_comm]

/-- Where a unit-level command gives a next state. -/
theorem unitCommand_next {s t : State} {kinds : List Kind} {k : UnitId} {body : Result} :
    s.unitCommand kinds k body = .next t ↔
      s.faulted = false ∧
        (admits kinds k = false ∧ t = s.raise .illegalCommand
          ∨ admits kinds k = true ∧ (s.ready = true ∧ body = .next t
              ∨ s.ready = false ∧ t = s.raise .lifecycle)) := by
  unfold State.unitCommand State.engineCommand
  cases s.faulted <;> cases admits kinds k <;> cases s.ready <;> simp [eq_comm]

theorem whenStorage_next {t : State} {ok : Bool} {body : Result} :
    whenStorage ok body = .next t ↔ ok = true ∧ body = .next t := by
  cases ok <;> simp [whenStorage]

/-- A command whose condition holds runs its body. -/
theorem engineCommand_runs {s : State} {legal : Bool} {body : Result} (hf : s.faulted = false)
    (hl : legal = true) : s.engineCommand legal body = body := by
  simp [State.engineCommand, hf, hl]

/-- A unit-level command on a unit of its kinds runs its body on a running engine. -/
theorem unitCommand_runs {s : State} {kinds : List Kind} {k : UnitId} {body : Result}
    (hf : s.faulted = false) (hk : admits kinds k = true) (hr : s.ready = true) :
    s.unitCommand kinds k body = body := by
  simp [State.unitCommand, State.engineCommand, hf, hk, hr]

/-! ## Free values, clamping, indices -/

/-- Every drawn value is a NaN (R22). -/
theorem fIsNaN_nanOf (b : F32) : fIsNaN (nanOf b) = true := by
  unfold nanOf; split
  · assumption
  · decide

/-- Every NaN is a value that can be drawn (R22). -/
theorem nanOf_surjective (b : F32) (h : fIsNaN b = true) : nanOf b = b := by
  unfold nanOf; rw [if_pos h]

theorem fIsNaN_nan (s : State) (site : Nat) : fIsNaN (s.nan site) = true := fIsNaN_nanOf _

/-- A clamped value lies in its range (R21), whatever the operand. -/
theorem fclamp_inRange (v lo hi : F32) (h : fle lo hi = true) :
    fle lo (fclamp v lo hi) = true ∧ fle (fclamp v lo hi) hi = true := by
  simp only [fle, Bool.and_eq_true, Bool.not_eq_true', decide_eq_true_eq] at h
  unfold fclamp
  by_cases hv : fIsNaN v = true
  · simp [hv, fle, h]
  · simp only [Bool.not_eq_true] at hv
    by_cases h1 : flt v lo = true
    · simp [h1, fle, h]
    · by_cases h2 : flt hi v = true
      · simp [h1, h2, hv, fle, h]
      · simp only [flt, hv, h.1.1, h.1.2, Bool.not_false, Bool.true_and, decide_eq_true_eq,
          Int.not_lt] at h1 h2
        have e1 : flt v lo = false := by simp [flt, hv, h.1.1, h1]
        have e2 : flt hi v = false := by simp [flt, hv, h.1.2, h2]
        simp [e1, e2, hv, fle, h, h1, h2]

/-- A wrapped index lies in the buffer (R24, R212). -/
theorem wrapIndex_lt (i : Int) (L : Nat) (h : 0 < L) : wrapIndex i L < L := by
  have h1 := Int.emod_nonneg i (b := (L : Int)) (by omega)
  have h2 := Int.emod_lt_of_pos i (b := (L : Int)) (by omega)
  unfold wrapIndex; omega

/-- Behind the cursor, the wrapped index is the natural one. -/
theorem wrapIndex_sub (w n L : Nat) (h : n ≤ L) : wrapIndex ((w : Int) - (n : Int)) L = (w + L - n) % L := by
  unfold wrapIndex
  have e : (w : Int) - (n : Int) = ((w + L - n : Nat) : Int) - (L : Int) := by omega
  rw [e, Int.sub_emod_right]
  omega

/-- Wrapping before an offset is added changes nothing. -/
theorem wrapIndex_add (a off : Int) (L : Nat) (h : 0 < L) :
    wrapIndex ((wrapIndex a L : Int) + off) L = wrapIndex (a + off) L := by
  have h1 := Int.emod_nonneg a (b := (L : Int)) (by omega)
  unfold wrapIndex
  rw [Int.toNat_of_nonneg h1, Int.emod_add_emod]

/-! ## Drawing an order -/

/-- An order drawn holds each entry once (R1110). -/
theorem drawOrder_perm {α : Type} (d : Nat → Nat) : ∀ (m : Nat) (l : List α), l.length = m →
    (drawOrder d m l).Perm l := by
  intro m
  induction m with
  | zero => intro l h; rw [List.length_eq_zero_iff.mp h]; exact List.Perm.refl _
  | succ m ih =>
    intro l h
    have hlt : d (m + 1) % l.length < l.length := Nat.mod_lt _ (by omega)
    unfold drawOrder
    rw [List.getElem?_eq_getElem hlt]
    exact ((ih _ (by rw [List.length_eraseIdx_of_lt hlt]; omega)).cons _).trans
      (List.getElem_cons_eraseIdx_perm hlt)

/-! ## The unit steps

Each step's response, and the one update it makes. -/

theorem dlStep_state (k : UnitId) (x : F32) (s : State) :
    (dlStep k x s).2 = { s with
      arena := { s.arena with
        mem := memWriteWord s.arena.mem ((s.delay k).base + 4 * (s.delay k).w) x },
      delays := bankSet delaySlot s.delays k (s.delay k).advance } := rfl

theorem lfoStep_state (j : UnitId) (s : State) :
    (lfoStep j s).2 = { s with
      oscs := bankSet lfoSlot s.oscs j { s.osc j with idx := ((s.osc j).idx + 1) % (s.osc j).N } } := rfl

theorem apStep_state (k : UnitId) (x : F32) (s : State) :
    (apStep k x s).2 = { s with
      arena := { s.arena with
        mem := memWriteWord s.arena.mem ((s.delay k).base + 4 * (s.delay k).w) (apStored k x s) },
      delays := bankSet delaySlot s.delays k (s.delay k).advance,
      oscs := if unitKind k = .APM then (lfoStep (s.modulation k).lfo s).2.oscs else s.oscs,
      draws := s.draws + 1 } := by
  unfold apStep apReadCell; split <;> rfl

theorem opStep_state (k : UnitId) (x : F32) (s : State) :
    (opStep k x s).2 = { s with
      poles := bankSet poleSlot s.poles k { s.pole k with
        s := if unitKind k = .OPL then smoothed s (s.pole k).beta x (s.pole k).s else opMid k x s },
      draws := s.draws + 1 } := by
  unfold opStep; split <;> rfl

theorem dzStep_state (k : UnitId) (x : F32) (s : State) :
    (dzStep k x s).2 = { s with
      dezips := bankSet dzSlot s.dezips k { s.dezip k with
        last := smoothed s (s.dezip k).beta x (s.dezip k).last },
      draws := s.draws + 1 } := rfl

theorem satStep_state (k : UnitId) (x : F32) (s : State) :
    (satStep k x s).2 = { s with draws := s.draws + 1 } := rfl

theorem clearDelay_state (s : State) (k : UnitId) :
    s.clearDelay k = { s with
      arena := { s.arena with
        mem := memClear s.arena.mem (s.delay k).base (4 * (s.delay k).L) },
      delays := bankSet delaySlot s.delays k { s.delay k with w := 0 } } := rfl

/-- The lengths, bases, cursors of a list of units changed one after another: each by its own change. -/
theorem forDelays_delay (f : UnitId → Delay → Delay) : ∀ (ks : List UnitId) (s : State) (k : UnitId),
    ks.Nodup → (∀ j ∈ ks, (delaySlot j).isSome = true) →
    (s.forDelays ks f).delay k = if k ∈ ks then f k (s.delay k) else s.delay k := by
  intro ks
  induction ks with
  | nil => intro s k _ _; simp [State.forDelays]
  | cons j ks ih =>
    intro s k hn hs
    have hj := hs j List.mem_cons_self
    rw [List.nodup_cons] at hn
    have h := ih (s.setDelay j (f j (s.delay j))) k hn.2 (fun i hi => hs i (List.mem_cons_of_mem _ hi))
    have e : s.forDelays (j :: ks) f = (s.setDelay j (f j (s.delay j))).forDelays ks f := rfl
    rw [e, h]
    by_cases hk : k = j
    · subst hk; simp [hn.1, hj]
    · simp [hk, State.setDelay_delay_other _ _ _ _ hk]

/-- Changing the delay fields changes nothing else. -/
theorem forDelays_state (f : UnitId → Delay → Delay) : ∀ (ks : List UnitId) (s : State),
    s.forDelays ks f = { s with delays := (s.forDelays ks f).delays } := by
  intro ks
  induction ks with
  | nil => intro s; rfl
  | cons j ks ih =>
    intro s
    have e : s.forDelays (j :: ks) f = (s.setDelay j (f j (s.delay j))).forDelays ks f := rfl
    rw [e, ih]; rfl

/-! ## Taking work -/

/-- What the choice among jobs can be: one of them, and one wherever there is one (R300). -/
theorem pickJob_mem {d : Nat} {l : List (Nat × Job)} {e : Nat × Job} (h : pickJob d l = some e) :
    e ∈ l := by
  match l, h with
  | [], h => simp [pickJob] at h
  | [j], h => simp only [pickJob, Option.some.injEq] at h; simp [h]
  | j :: j' :: l, h =>
    simp only [pickJob] at h
    exact List.mem_of_getElem? h

theorem pickJob_none {d : Nat} {l : List (Nat × Job)} (h : pickJob d l = none) : l = [] := by
  match l, h with
  | [], _ => rfl
  | [j], h => simp [pickJob] at h
  | j :: j' :: l, h =>
    simp only [pickJob, List.getElem?_eq_none_iff] at h
    have := Nat.mod_lt d (show 0 < (j :: j' :: l).length by simp)
    omega

theorem mem_jobs {s : State} {a : Nat} {j : Job} :
    (a, j) ∈ s.jobs ↔ ∃ ag, (a, ag) ∈ s.agents ∧ agentJob s.faulted ag = some j := by
  unfold State.jobs
  rw [List.mem_filterMap]
  constructor
  · rintro ⟨⟨b, ag⟩, hm, h⟩
    simp only [Option.map_eq_some_iff, Prod.mk.injEq] at h
    obtain ⟨j', h1, h2, h3⟩ := h
    subst h2; subst h3; exact ⟨ag, hm, h1⟩
  · rintro ⟨ag, hm, h⟩
    exact ⟨(a, ag), hm, by simp [h]⟩

/-- Where the step gives a next state: it did one job of one listed agent. -/
theorem step_next {s t : State} (h : step s = .next t) :
    ∃ a ag j, (a, ag) ∈ s.agents ∧ agentJob s.faulted ag = some j ∧
      (match j with
      | .command i rest => exec i (s.take a rest) = .next t
      | .illegal rest => t = (s.take a rest).raise .illegalCommand
      | .resume => t = s.resumeControl a) := by
  unfold step at h
  cases hp : pickJob (Config.agentDraw s.draws) s.jobs with
  | none => rw [hp] at h; cases h
  | some e =>
    obtain ⟨a, j⟩ := e
    obtain ⟨ag, hm, hj⟩ := mem_jobs.mp (pickJob_mem hp)
    refine ⟨a, ag, j, hm, hj, ?_⟩
    rw [hp] at h
    cases j with
    | command i rest => exact h
    | illegal rest => simpa [eq_comm] using h
    | resume => simpa [eq_comm] using h

/-- Where the step stops: no agent has a job, or a meaning stopped. -/
theorem step_of_no_jobs {s : State} (h : s.jobs = []) : step s = .fault s.noStep := by
  unfold step; rw [h]; rfl

theorem take_state (s : State) (a : Nat) (rest : List Word) :
    s.take a rest = { s with
      agents := sparsePut Agent.fresh s.agents a { s.agent a with queue := rest }, cur := a,
      draws := s.draws + 1 } := rfl

theorem resumeControl_state (s : State) (a : Nat) {p : Param} {v : Word} {more : List (Param × Word)}
    (h : (s.agent a).pending = (p, v) :: more) :
    s.resumeControl a = { s with
      params := setParamValue s.params p v,
      agents := sparsePut Agent.fresh s.agents a { s.agent a with pending := more }, cur := a,
      draws := s.draws + 1 } := by
  unfold State.resumeControl; rw [h]; rfl

end Sys2Proof.Machine
end

