-- ==== Sys2Proof/Laws/PerInstr.lean ====
section
/-! SUPPORT. Statements made of every instruction as syntax, one lemma per constructor. -/

namespace Sys2Proof.Laws

open Sys2Proof.Machine

/-- A command is its command word and the K operand words of its row (R302, R345). -/
def EncodeLength.Statement (i : Instr) : Prop := (encode i).length = 1 + operandCount i

theorem EncodeLength.arenaReserve : ∀ a, EncodeLength.Statement (.arenaReserve a) := by
  intros; rfl

theorem EncodeLength.arenaCarve : ∀ a, EncodeLength.Statement (.arenaCarve a) := by
  intros; rfl

theorem EncodeLength.engineCreate : EncodeLength.Statement .engineCreate := rfl

theorem EncodeLength.engineInit : EncodeLength.Statement .engineInit := rfl

theorem EncodeLength.engineReset : EncodeLength.Statement .engineReset := rfl

theorem EncodeLength.readStatus : EncodeLength.Statement .readStatus := rfl

theorem EncodeLength.setParam : ∀ a b, EncodeLength.Statement (.setParam a b) := by
  intros; rfl

theorem EncodeLength.setControl : ∀ a b c d e f g h j l, EncodeLength.Statement (.setControl a b c d e f g h j l) := by
  intros; rfl

theorem EncodeLength.readParam : ∀ a, EncodeLength.Statement (.readParam a) := by
  intros; rfl

theorem EncodeLength.processMono : ∀ a, EncodeLength.Statement (.processMono a) := by
  intros; rfl

theorem EncodeLength.processStereo : ∀ a b, EncodeLength.Statement (.processStereo a b) := by
  intros; rfl

theorem EncodeLength.dlProcess : ∀ a b, EncodeLength.Statement (.dlProcess a b) := by
  intros; rfl

theorem EncodeLength.dlSetDelay : ∀ a b, EncodeLength.Statement (.dlSetDelay a b) := by
  intros; rfl

theorem EncodeLength.dlReset : ∀ a, EncodeLength.Statement (.dlReset a) := by
  intros; rfl

theorem EncodeLength.apProcess : ∀ a b, EncodeLength.Statement (.apProcess a b) := by
  intros; rfl

theorem EncodeLength.apSetCoef : ∀ a b, EncodeLength.Statement (.apSetCoef a b) := by
  intros; rfl

theorem EncodeLength.apSetDelay : ∀ a b, EncodeLength.Statement (.apSetDelay a b) := by
  intros; rfl

theorem EncodeLength.apSetDepth : ∀ a b, EncodeLength.Statement (.apSetDepth a b) := by
  intros; rfl

theorem EncodeLength.apReset : ∀ a, EncodeLength.Statement (.apReset a) := by
  intros; rfl

theorem EncodeLength.lfoStep : ∀ a, EncodeLength.Statement (.lfoStep a) := by
  intros; rfl

theorem EncodeLength.lfoReset : ∀ a, EncodeLength.Statement (.lfoReset a) := by
  intros; rfl

theorem EncodeLength.opProcess : ∀ a b, EncodeLength.Statement (.opProcess a b) := by
  intros; rfl

theorem EncodeLength.opSetCutoff : ∀ a b, EncodeLength.Statement (.opSetCutoff a b) := by
  intros; rfl

theorem EncodeLength.opReset : ∀ a, EncodeLength.Statement (.opReset a) := by
  intros; rfl

theorem EncodeLength.satProcess : ∀ a b, EncodeLength.Statement (.satProcess a b) := by
  intros; rfl

theorem EncodeLength.satSetDrive : ∀ a b, EncodeLength.Statement (.satSetDrive a b) := by
  intros; rfl

theorem EncodeLength.dzSmooth : ∀ a b, EncodeLength.Statement (.dzSmooth a b) := by
  intros; rfl

theorem EncodeLength.dzSetFactor : ∀ a b, EncodeLength.Statement (.dzSetFactor a b) := by
  intros; rfl

theorem EncodeLength.dzPreset : ∀ a b, EncodeLength.Statement (.dzPreset a b) := by
  intros; rfl

end Sys2Proof.Laws
end

