-- ==== Sys2Proof/Tests/Slice0.lean ====
section
/-! SUPPORT. The model's own tests: the well-formedness smoke tests, a word written out bit by bit for every
instruction, one or two single steps for each instruction with the results that 95_test_vectors.md gives,
and for every statement with hypotheses a state and operands that meet them. -/

namespace Sys2Proof.Tests

-- One theorem after another: their kernel evaluations do not run at once.
set_option Elab.async false

open Sys2Proof Sys2Proof.Machine

/-! ## Well-formedness refuses ill-formed instructions (R340 (c)) -/

theorem test_wellFormed_refuses_dlProcess : wellFormed (.dlProcess .AP1 0) = false := by decide
theorem test_wellFormed_refuses_dlSetDelay : wellFormed (.dlSetDelay .MAP_A 0) = false := by decide
theorem test_wellFormed_refuses_dlReset : wellFormed (.dlReset .LFO_A) = false := by decide
theorem test_wellFormed_refuses_apProcess : wellFormed (.apProcess .PD 0) = false := by decide
theorem test_wellFormed_refuses_apSetCoef : wellFormed (.apSetCoef .DL1_A 0) = false := by decide
theorem test_wellFormed_refuses_apSetDelay : wellFormed (.apSetDelay .ILP 0) = false := by decide
theorem test_wellFormed_refuses_apSetDepth : wellFormed (.apSetDepth .AP1 0) = false := by decide
theorem test_wellFormed_refuses_apReset : wellFormed (.apReset .SAT_A) = false := by decide
theorem test_wellFormed_refuses_lfoStep : wellFormed (.lfoStep .MAP_A) = false := by decide
theorem test_wellFormed_refuses_lfoReset : wellFormed (.lfoReset .DZ_A1) = false := by decide
theorem test_wellFormed_refuses_opProcess : wellFormed (.opProcess .SAT_A 0) = false := by decide
theorem test_wellFormed_refuses_opSetCutoff : wellFormed (.opSetCutoff .PD 0) = false := by decide
theorem test_wellFormed_refuses_opReset : wellFormed (.opReset .TAP_B) = false := by decide
theorem test_wellFormed_refuses_satProcess : wellFormed (.satProcess .DLP_A 0) = false := by decide
theorem test_wellFormed_refuses_satSetDrive : wellFormed (.satSetDrive .DZ_DRV 0) = false := by decide
theorem test_wellFormed_refuses_dzSmooth : wellFormed (.dzSmooth .LFO_B 0) = false := by decide
theorem test_wellFormed_refuses_dzSetFactor : wellFormed (.dzSetFactor .IHP 0) = false := by decide
theorem test_wellFormed_refuses_dzPreset : wellFormed (.dzPreset .XAP2_B 0) = false := by decide

/-! ## Decoding words written out from R301 and R310: OPC, UNIT, IMM16 -/

theorem test_decode_arenaReserve :
    decode [0b00000001000000000000000000000000#32, 0x1000#32]
      = .ok (.arenaReserve 0x1000#32) [] := by decide
theorem test_decode_arenaCarve :
    decode [0b00000010000000000000000000000000#32, 6#32]
      = .ok (.arenaCarve 6#32) [] := by decide
theorem test_decode_engineCreate :
    decode [0b00000011000000000000000000000000#32]
      = .ok (.engineCreate) [] := by decide
theorem test_decode_engineInit :
    decode [0b00000100000000000000000000000000#32]
      = .ok (.engineInit) [] := by decide
theorem test_decode_engineReset :
    decode [0b00000101000000000000000000000000#32]
      = .ok (.engineReset) [] := by decide
theorem test_decode_readStatus :
    decode [0b00000110000000000000000000000000#32]
      = .ok (.readStatus) [] := by decide
theorem test_decode_setParam :
    decode [0b00010000000000000000000000000100#32, 0x3F733333#32]
      = .ok (.setParam .decay 0x3F733333#32) [] := by decide
theorem test_decode_setControl :
    decode [0b00010001000000000000000000000000#32, 0#32, 1#32, 2#32, 3#32, 4#32, 5#32, 6#32, 7#32, 8#32, 9#32]
      = .ok (.setControl 0#32 1#32 2#32 3#32 4#32 5#32 6#32 7#32 8#32 9#32) [] := by decide
theorem test_decode_readParam :
    decode [0b00010010000000000000000000000110#32]
      = .ok (.readParam .hfDampingHz) [] := by decide
theorem test_decode_processMono :
    decode [0b00100000000000000000000000000000#32, 0x3E800000#32]
      = .ok (.processMono 0x3E800000#32) [] := by decide
theorem test_decode_processStereo :
    decode [0b00100001000000000000000000000000#32, 0x3F800000#32, 0#32]
      = .ok (.processStereo 0x3F800000#32 0#32) [] := by decide
theorem test_decode_dlProcess :
    decode [0b00110000000000010000000000000000#32, 0x3F800000#32]
      = .ok (.dlProcess .PD 0x3F800000#32) [] := by decide
theorem test_decode_dlSetDelay :
    decode [0b00110001000010010000000000000000#32, 7#32]
      = .ok (.dlSetDelay .DL1_A 7#32) [] := by decide
theorem test_decode_dlReset :
    decode [0b00110010000101110000000000000000#32]
      = .ok (.dlReset .DL2_B) [] := by decide
theorem test_decode_apProcess :
    decode [0b01000000000100010000000000000000#32, 0x3F800000#32]
      = .ok (.apProcess .MAP_B 0x3F800000#32) [] := by decide
theorem test_decode_apSetCoef :
    decode [0b01000001000001000000000000000000#32, 0x3F000000#32]
      = .ok (.apSetCoef .AP1 0x3F000000#32) [] := by decide
theorem test_decode_apSetDelay :
    decode [0b01000010000110010000000000000000#32, 3#32]
      = .ok (.apSetDelay .XAP2_B 3#32) [] := by decide
theorem test_decode_apSetDepth :
    decode [0b01000011000010000000000000000000#32, 0x40000000#32]
      = .ok (.apSetDepth .MAP_A 0x40000000#32) [] := by decide
theorem test_decode_apReset :
    decode [0b01000100000011010000000000000000#32]
      = .ok (.apReset .TAP_A) [] := by decide
theorem test_decode_lfoStep :
    decode [0b01010000000110100000000000000000#32]
      = .ok (.lfoStep .LFO_A) [] := by decide
theorem test_decode_lfoReset :
    decode [0b01010001000110110000000000000000#32]
      = .ok (.lfoReset .LFO_B) [] := by decide
theorem test_decode_opProcess :
    decode [0b01100000000000100000000000000000#32, 0x3F800000#32]
      = .ok (.opProcess .ILP 0x3F800000#32) [] := by decide
theorem test_decode_opSetCutoff :
    decode [0b01100001000010110000000000000000#32, 0#32]
      = .ok (.opSetCutoff .DLP_A 0#32) [] := by decide
theorem test_decode_opReset :
    decode [0b01100010000000110000000000000000#32]
      = .ok (.opReset .IHP) [] := by decide
theorem test_decode_satProcess :
    decode [0b01110000000010100000000000000000#32, 0x3F000000#32]
      = .ok (.satProcess .SAT_A 0x3F000000#32) [] := by decide
theorem test_decode_satSetDrive :
    decode [0b01110001000100110000000000000000#32, 0xC1A00000#32]
      = .ok (.satSetDrive .SAT_B 0xC1A00000#32) [] := by decide
theorem test_decode_dzSmooth :
    decode [0b10000000000111000000000000000000#32, 0x3F800000#32]
      = .ok (.dzSmooth .DZ_A1 0x3F800000#32) [] := by decide
theorem test_decode_dzSetFactor :
    decode [0b10000001001000000000000000000000#32, 0x3F000000#32]
      = .ok (.dzSetFactor .DZ_MIX 0x3F000000#32) [] := by decide
theorem test_decode_dzPreset :
    decode [0b10000010001001010000000000000000#32, 0#32]
      = .ok (.dzPreset .DZ_DRV 0#32) [] := by decide

/-! The illegal words ENC-11 to ENC-19 of 95_test_vectors.md, by the clause of R340 that holds. -/

theorem test_illegal_unknown_opcode : decode [0x07000000#32, 0#32] = .reject .unknownOpcode := by decide
theorem test_illegal_dl_process_on_allpass : decode [0x30040000#32, 0#32] = .reject .badUnit := by decide
theorem test_illegal_depth_on_unmodulated : decode [0x43040000#32, 0#32] = .reject .badUnit := by decide
theorem test_illegal_unit_zero : decode [0x30000000#32, 0#32] = .reject .badUnit := by decide
theorem test_illegal_unit_38 : decode [0x30260000#32, 0#32] = .reject .badUnit := by decide
theorem test_illegal_param_index_10 : decode [0x1000000A#32, 0#32] = .reject .badParam := by decide
theorem test_illegal_status_imm : decode [0x06000001#32, 0#32] = .reject .immNotZero := by decide
theorem test_illegal_status_unit : decode [0x06010000#32, 0#32] = .reject .unitNotZero := by decide
theorem test_illegal_unit_row_imm : decode [0x30010001#32, 0#32] = .reject .immNotZero := by decide

/-- A command word whose operand has not arrived is no illegal word (R302). -/
theorem test_incomplete_command_waits : decode [0x21000000#32, 0x3F800000#32] = .reject .incomplete := by
  decide

/-- The table's numbering: the second word of a row starts at bit 32. -/
theorem test_decodeTableWord :
    decodeTableWord 64 (0x10000004 + 0x3F733333 * 2 ^ 32) = some (.setParam .decay 0x3F733333#32) := by
  decide

/-- The step takes an opcode-table word as the first instruction after reset: READ_STATUS responds 0, and
PROCESS_MONO raises LIFECYCLE. -/
theorem test_first_step_after_reset :
    (match step (State.reset.withFetchWord 32 0x06000000) with
      | .next t => decide ((t.agent 0).resp = [0#32])
      | _ => false) = true
    ∧ (match step (State.reset.withFetchWord 64 0x20000000) with
      | .next t => decide (t.statusWord = 0x00000208#32)
      | _ => false) = true := by
  decide +kernel

/-! ## Small states -/

/-- A block of configuration `c` in the RESERVED state with a capacity and nothing carved. -/
def reserved (c : Cfg) (cap : Nat) : State :=
  { State.powerOn c 0 with reserved := true, arena := ⟨cap, 0, []⟩ }

/-- The same after ENGINE_CREATE. -/
def created (c : Cfg) (cap : Nat) : State := (reserved c cap).create

/-- The tables LFO-1 and LFO-2 of 95_test_vectors.md. -/
def tableA : List F32 := [0x00000000#32, 0x3F800000#32, 0xB3BBBD2E#32, 0xBF800000#32]
def tableB : List F32 :=
  [0x00000000#32, 0x3F3504F3#32, 0x3F800000#32, 0x3F3504F3#32, 0xB3BBBD2E#32, 0xBF3504F5#32,
    0xBF800000#32, 0xBF3504EF#32]

/-- A ready engine in configuration TINY: every buffer zero with L = 8, every n 1, every coefficient 0.5, no
modulation. -/
def ready : State :=
  { created Config.tiny 544 with
    ready := true
    arena := ⟨544, 544, []⟩
    delays := Vector.ofFn (fun i => ⟨8, 32 * i.val, 1, 0⟩)
    alphas := Vector.replicate 12 0x3F000000#32
    poles := Vector.replicate 6 ⟨0x3F000000#32, 0#32⟩
    oscs := #v[⟨4, tableA, 0⟩, ⟨8, tableB, 0⟩]
    dezips := Vector.replicate 10 ⟨0x3F000000#32, 0#32⟩ }

/-- What an outcome leaves, where it is a next state. -/
def after (r : Result) (p : State → Bool) : Bool :=
  match r with
  | .next t => p t
  | _ => false

/-- An outcome's responses to agent 0 are these. -/
def responds (r : Result) (ws : List Word) : Bool := after r (fun t => decide ((t.agent 0).resp = ws))

/-! ## One step of each instruction

Each expected value is from the named vector of 95_test_vectors.md or from the named rule's example. -/

/-- AR-1: capacity 16, nothing carved, STATUS 0x01. -/
theorem test_arenaReserve :
    after (exec (.arenaReserve 16#32) (State.powerOn Config.tiny 0))
      (fun t => decide (t.arena = ⟨16, 0, []⟩ ∧ t.statusWord = 1#32)) = true := by
  decide +kernel

/-- AR-7: a second reserve raises LIFECYCLE, STATUS 0x0209. -/
theorem test_arenaReserve_twice :
    after (exec (.arenaReserve 16#32) (reserved Config.tiny 16)) (fun t => t.statusWord == 0x209#32) = true := by
  decide +kernel

/-- AR-2: 6 bytes from offset 0 answer 0 and move the offset to 8. -/
theorem test_arenaCarve :
    (responds (exec (.arenaCarve 6#32) (reserved Config.tiny 16)) [0#32]
      && after (exec (.arenaCarve 6#32) (reserved Config.tiny 16)) (fun t => t.arena.off == 8)) = true := by
  decide +kernel

/-- AR-3: past the capacity, ARENA_OVERFLOW, STATUS 0x0309, no response. -/
theorem test_arenaCarve_overflow :
    after (exec (.arenaCarve 17#32) (reserved Config.tiny 16))
      (fun t => t.statusWord == 0x309#32 && (t.agent 0).resp.isEmpty) = true := by
  decide +kernel

/-- R1305's example: STATUS 0x03, and L from the configuration. -/
theorem test_engineCreate :
    after (exec .engineCreate (reserved Config.tiny 4096))
      (fun t => t.statusWord == 3#32 && (t.delay .XAP2_B).L == 8 && (t.modulation .MAP_B).lfo == .LFO_B) = true := by
  decide +kernel

/-- R1310's example: bases 0 to 512, STATUS 0x07, off 544. -/
theorem test_engineInit :
    after (exec .engineInit (created Config.tiny 544))
      (fun t => t.statusWord == 7#32 && (t.delay .DL1_A).base == 192 && (t.delay .XAP2_B).base == 512
        && t.arena.off == 544 && (t.osc .LFO_B).N == 8 && (t.delay .DL1_B).n == 4) = true := by
  decide +kernel

/-- R1310's example: 540 bytes overflow at unit 25, STATUS 0x030B. -/
theorem test_engineInit_overflow :
    after (exec .engineInit (created Config.tiny 540))
      (fun t => t.statusWord == 0x30B#32 && t.arena.off == 512) = true := by
  decide +kernel

/-- R1320: cursors and phases 0, n kept, dezippers preset to the targets (DZ-5). -/
theorem test_engineReset :
    after (exec .engineReset (ready.setDelay .PD ⟨8, 0, 5, 3⟩))
      (fun t => t.delay .PD == ⟨8, 0, 5, 0⟩ && t.dezip .DZ_A2 == ⟨0x3F7FBE77#32, 0x3F200000#32⟩
        && t.dezip .DZ_DRV == ⟨0x3F7FBE77#32, 0x3DCCCCCD#32⟩) = true := by
  decide +kernel

/-- R1330's example: 0x0208 after a LIFECYCLE fault at power-on. -/
theorem test_readStatus :
    responds (exec .readStatus ((State.powerOn Config.tiny 0).raise .lifecycle)) [0x208#32] = true := by
  decide +kernel

/-- CTRL-1: SET_PARAM hfDampingHz, 100 stores 400. -/
theorem test_setParam_clamps :
    after (exec (.setParam .hfDampingHz 0x42C80000#32) ready)
      (fun t => t.params.hfDampingHz == 0x43C80000#32) = true := by
  decide +kernel

/-- R1101: a NaN stores the lower bound. -/
theorem test_setParam_nan :
    after (exec (.setParam .inputLowpassHz 0x7FC00000#32) ready)
      (fun t => t.params.inputLowpassHz == 0x41200000#32) = true := by
  decide +kernel

/-- R1110: SET_CONTROL's first step completes whatever order is drawn. -/
theorem test_setControl :
    ∃ t, exec (.setControl 1#32 0#32 0#32 0#32 0#32 0#32 0#32 0#32 0#32 1#32) ready = .next t := ⟨_, rfl⟩

/-- R1120: the pattern at power-on. -/
theorem test_readParam :
    responds (exec (.readParam .hfDampingHz) ready) [0x469C4000#32] = true := by
  decide +kernel

/-- R1140, R1225: the predelay length is rewritten, cursors and phases move on, an extra allpass is held. -/
theorem test_processMono :
    after (exec (.processMono 0x3F800000#32) ready)
      (fun t => t.delay .PD == ⟨8, 0, 0, 1⟩ && (t.osc .LFO_A).idx == 1 && (t.delay .XAP1_A).w == 0) = true := by
  decide +kernel

/-- R1615: before ENGINE_INIT it raises LIFECYCLE. -/
theorem test_processMono_lifecycle :
    after (exec (.processMono 0#32) (created Config.tiny 544)) (fun t => t.statusWord == 0x20B#32) = true := by
  decide +kernel

/-- R1260: one engine sample; two responses. -/
theorem test_processStereo :
    after (exec (.processStereo 0x3F800000#32 0#32) ready)
      (fun t => t.delay .DL2_B == ⟨8, 448, 1, 1⟩ && (t.agent 0).resp.length == 2) = true := by
  decide +kernel

/-- R500: the cell n = 1 behind the cursor, before the write. -/
theorem test_dlProcess :
    (responds (exec (.dlProcess .PD 0x3F800000#32) ((ready.bufWrite .PD 7 0x40000000#32).bufWrite .PD 0 5#32))
      [0x40000000#32]
      && after (exec (.dlProcess .PD 0x3F800000#32) ready)
        (fun t => t.bufRead .PD 0 == 0x3F800000#32 && (t.delay .PD).w == 1)) = true := by
  decide +kernel

/-- DL-2: with n = 0 the bits pass through, NaN included. -/
theorem test_dlProcess_bypass :
    responds (exec (.dlProcess .PD 0x7FC00001#32) (ready.setLength .PD 0)) [0x7FC00001#32] = true := by
  decide +kernel

/-- DL-4: 100 on L = 8 sets n = 7. -/
theorem test_dlSetDelay :
    after (exec (.dlSetDelay .DL1_A 100#32) ready) (fun t => (t.delay .DL1_A).n == 7) = true := by
  decide +kernel

/-- DL-5: the buffer and w are cleared, n stays; the next unit's bytes stay. -/
theorem test_dlReset :
    after (exec (.dlReset .PD) (((ready.setDelay .PD ⟨8, 0, 2, 1⟩).bufWrite .PD 7 1#32).bufWrite .AP1 0 9#32))
      (fun t => t.delay .PD == ⟨8, 0, 2, 0⟩ && t.bufRead .PD 7 == 0#32 && t.bufRead .AP1 0 == 9#32) = true := by
  decide +kernel

/-- AP-1: the first response is alpha; the input is stored. -/
theorem test_apProcess :
    (responds (exec (.apProcess .AP1 0x3F800000#32) ready) [0x3F000000#32]
      && responds (exec (.apProcess .AP1 0#32) (ready.bufWrite .AP1 7 0x3F800000#32)) [0x3F400000#32]) = true := by
  decide +kernel

/-- APM-1 at call 1: offset 1 from sample 0.7071 at depth 2 reads the cell at the cursor. -/
theorem test_apProcess_modulated :
    (responds (exec (.apProcess .MAP_B 0x40000000#32)
      ((((ready.setAlpha .MAP_B 0#32).setModulation .MAP_B ⟨0x40000000#32, .LFO_B⟩).setOsc .LFO_B
        ⟨8, tableB, 1⟩).bufWrite .MAP_B 0 0x41100000#32)) [0x41100000#32]) = true := by
  decide +kernel

/-- AP-3: 2.0 gives ALPHA_MAX. -/
theorem test_apSetCoef :
    after (exec (.apSetCoef .AP1 0x40000000#32) ready) (fun t => t.alpha .AP1 == 0x3F7FFFFF#32) = true := by
  decide +kernel

/-- R620's example: 3 on L = 8 sets n = 3. -/
theorem test_apSetDelay :
    after (exec (.apSetDelay .AP1 3#32) ready) (fun t => (t.delay .AP1).n == 3) = true := by
  decide +kernel

/-- APM-3: +infinity gives FLT_MAX and a negative value 0. -/
theorem test_apSetDepth :
    (after (exec (.apSetDepth .MAP_A 0x7F800000#32) ready)
        (fun t => (t.modulation .MAP_A).depth == 0x7F7FFFFF#32)
      && after (exec (.apSetDepth .MAP_A 0xC0400000#32) ready) (fun t => (t.modulation .MAP_A).depth == 0#32)) = true := by
  decide +kernel

/-- R640: the buffer is cleared, alpha and the oscillator's phase stay. -/
theorem test_apReset :
    after (exec (.apReset .MAP_A) ((ready.bufWrite .MAP_A 3 1#32).setOsc .LFO_A ⟨4, tableA, 2⟩))
      (fun t => t.bufRead .MAP_A 3 == 0#32 && (t.osc .LFO_A).idx == 2 && t.alpha .MAP_A == 0x3F000000#32) = true := by
  decide +kernel

/-- LFO-2: the fourth sample, and the phase wraps. -/
theorem test_lfoStep :
    (responds (exec (.lfoStep .LFO_A) (ready.setOsc .LFO_A ⟨4, tableA, 3⟩)) [0xBF800000#32]
      && after (exec (.lfoStep .LFO_A) (ready.setOsc .LFO_A ⟨4, tableA, 3⟩)) (fun t => (t.osc .LFO_A).idx == 0)) = true := by
  decide +kernel

/-- R720: phase 0. -/
theorem test_lfoReset :
    after (exec (.lfoReset .LFO_B) (ready.setOsc .LFO_B ⟨8, tableB, 5⟩)) (fun t => t.osc .LFO_B == ⟨8, tableB, 0⟩) = true := by
  decide +kernel

/-- OP-1: the second response, from state 0.5. -/
theorem test_opProcess_lowpass :
    responds (exec (.opProcess .DLP_A 0x3F800000#32) (ready.setPole .DLP_A ⟨0x3F000000#32, 0x3F000000#32⟩)) [0x3F400000#32] = true := by
  decide +kernel

/-- OP-2: the second response, from state 1.0, and the midpoint kept. -/
theorem test_opProcess_highpass :
    (responds (exec (.opProcess .DHP_A 0#32) (ready.setPole .DHP_A ⟨0x3F000000#32, 0x3F800000#32⟩)) [0xBF000000#32]
      && after (exec (.opProcess .DHP_A 0#32) (ready.setPole .DHP_A ⟨0x3F000000#32, 0x3F800000#32⟩))
        (fun t => (t.pole .DHP_A).s == 0x3F000000#32)) = true := by
  decide +kernel

/-- R810: the memory cell is kept. -/
theorem test_opSetCutoff :
    after (exec (.opSetCutoff .DLP_A 0x41200000#32) (ready.setPole .DLP_A ⟨0#32, 0x3F000000#32⟩))
      (fun t => (t.pole .DLP_A).s == 0x3F000000#32) = true := by
  decide +kernel

/-- R820: s is +0.0 and beta stays. -/
theorem test_opReset :
    after (exec (.opReset .IHP) (ready.setPole .IHP ⟨0x3F000000#32, 5#32⟩)) (fun t => t.pole .IHP == ⟨0x3F000000#32, 0#32⟩) = true := by
  decide +kernel

/-- R901: one response, and the drives stay. -/
theorem test_satProcess :
    after (exec (.satProcess .SAT_B 0x7FC00000#32) ready)
      (fun t => (t.agent 0).resp.length == 1 && t.drives == ready.drives) = true := by
  decide +kernel

/-- R910's example: -20 is stored unclamped. -/
theorem test_satSetDrive :
    after (exec (.satSetDrive .SAT_B 0xC1A00000#32) ready) (fun t => t.drive .SAT_B == 0xC1A00000#32 && t.drive .SAT_A == 0#32) = true := by
  decide +kernel

/-- DZ-4: a preset at the target steps by one ulp. -/
theorem test_dzSmooth :
    responds (exec (.dzSmooth .DZ_MIX 0xC53CA207#32) (ready.setDezip .DZ_MIX ⟨0x3F5C5300#32, 0xC53CA207#32⟩)) [0xC53CA208#32] = true := by
  decide +kernel

/-- DZ-2: with beta 0, 1e-35 is flushed. -/
theorem test_dzSmooth_flush :
    responds (exec (.dzSmooth .DZ_MIX 0x0554AD2E#32) (ready.setDezip .DZ_MIX ⟨0#32, 0x40E00000#32⟩)) [0#32] = true := by
  decide +kernel

/-- DZ-6: 2.0 gives ALPHA_MAX. -/
theorem test_dzSetFactor :
    after (exec (.dzSetFactor .DZ_MIX 0x40000000#32) ready) (fun t => t.dezip .DZ_MIX == ⟨0x3F7FFFFF#32, 0#32⟩) = true := by
  decide +kernel

/-- R1020: the operand is stored as it is, a subnormal too. -/
theorem test_dzPreset :
    after (exec (.dzPreset .DZ_DEC 1#32) ready) (fun t => t.dezip .DZ_DEC == ⟨0x3F000000#32, 1#32⟩) = true := by
  decide +kernel

/-! ## Witnesses

For each statement with hypotheses, a state and operands that meet all of them together. -/

/-- Every unit is listed. -/
theorem mem_allUnits (k : UnitId) : k ∈ allUnits := by cases k <;> decide

/-- The invariant as a check that can be evaluated. -/
def invCheck (s : State) : Bool :=
  s.cfg.wf && s.arena.mem.wf && s.arena.mem.all (fun c => decide (c.1 < s.arena.cap))
  && sparseWf Agent.fresh s.agents && decide (s.arena.off ≤ s.arena.cap)
  && decide (s.arena.off % 4 = 0) && (!s.created || s.reserved) && (!s.ready || s.created)
  && decide ((s.faulted = false) ↔ (s.faultCode = .none))
  && [Param.predelayMs, .inputLowpassHz, .inputHighpassHz, .diffusion, .decay, .driveDB, .hfDampingHz,
      .lfDampingHz, .mixPercent].all
      (fun p => inRange (paramRange p).1 (paramRange p).2 (paramWord s.params p))
  && (!s.created || (delayUnits.all (fun k => decide ((s.delay k).L = s.cfg.maxLenOf k))
      && decide ((s.modulation .MAP_A).lfo = .LFO_A) && decide ((s.modulation .MAP_B).lfo = .LFO_B)))
  && (!s.ready ||
      (delayUnits.all (fun k => decide ((s.delay k).w < (s.delay k).L)
          && decide ((s.delay k).n + 1 ≤ (s.delay k).L) && decide ((s.delay k).base % 4 = 0)
          && decide ((s.delay k).base + 4 * (s.delay k).L ≤ s.arena.off))
        && allUnits.all (fun k => (!admits apKinds k || inAlphaRange (s.alpha k))
          && (!admits apmKinds k || inRange f0 Config.fltMax (s.modulation k).depth)
          && (!admits lfoKinds k || decide (1 ≤ (s.osc k).N ∧ (s.osc k).N ≤ s.cfg.lfoTableMax
            ∧ (s.osc k).table.length = (s.osc k).N ∧ (s.osc k).idx < (s.osc k).N))
          && (!admits dzKinds k || inAlphaRange (s.dezip k).beta))
        && delayUnits.all (fun j => delayUnits.all (fun k => decide (j ≠ k →
          (s.delay j).base + 4 * (s.delay j).L ≤ (s.delay k).base
            ∨ (s.delay k).base + 4 * (s.delay k).L ≤ (s.delay j).base)))))

theorem inv_of_invCheck {s : State} (h : invCheck s = true) : s.Inv := by
  simp only [invCheck, Bool.and_eq_true, Bool.or_eq_true, Bool.not_eq_true', decide_eq_true_eq,
    List.all_eq_true] at h
  obtain ⟨⟨⟨⟨⟨⟨⟨⟨⟨⟨⟨h1, h2⟩, h3⟩, h4⟩, h5⟩, h6⟩, h7⟩, h8⟩, h9⟩, h10⟩, h11⟩, h12⟩ := h
  refine ⟨h1, h2, h3, h4, h5, h6, ⟨fun h => ?_, fun h => ?_⟩, h9, fun p hp => ?_, fun h => ?_,
    fun h => ?_, fun h => ?_⟩
  · rcases h7 with e | e <;> simp_all
  · rcases h8 with e | e <;> simp_all
  · exact h10 p (by cases p <;> first | decide | exact absurd rfl hp)
  · rcases h11 with e | e
    · simp_all
    · exact ⟨e.1.1, e.1.2, e.2⟩
  · rcases h12 with e | e
    · simp_all
    · have u := fun k => e.1.2 k (mem_allUnits k)
      exact ⟨fun k hk => (e.1.1 k hk).1.1.1, fun k hk => (e.1.1 k hk).1.1.2,
        fun k hk => (e.1.1 k hk).1.2, fun k hk => (e.1.1 k hk).2,
        fun k hk => by have := (u k).1.1.1; simp_all, fun k hk => by have := (u k).1.1.2; simp_all,
        fun k hk => by have := (u k).1.2; simp_all, fun k hk => by have := (u k).2; simp_all⟩
  · rcases h12 with e | e
    · simp_all
    · exact e.2

theorem ready_inv : ready.Inv := inv_of_invCheck (by decide +kernel)
theorem ready_running : ready.Running := ⟨rfl, rfl⟩
theorem created_inv : (created Config.tiny 544).Inv := inv_of_invCheck (by decide +kernel)

/-- DecodeOfEncode. -/
theorem witness_DecodeOfEncode :
    wellFormed (.apSetDepth .MAP_B 7#32) = true := by decide

/-- EncodeOfDecode. -/
theorem witness_EncodeOfDecode :
    decode [0x71130000#32, 5#32, 6#32] = .ok (.satSetDrive .SAT_B 5#32) [6#32] := by decide

/-- IllegalWordsAreRejected, clause by clause: (a) an opcode next to a row, (b) UNIT 1, (c) UNIT 38 and a unit
of another kind, (d) IMM16 1, (e) index 10; and index 9 is legal. -/
theorem witness_IllegalWords :
    IllegalWord 0x07000000#32 ∧ IllegalWord 0x06010000#32 ∧ IllegalWord 0x30260000#32
      ∧ IllegalWord 0x43040000#32 ∧ IllegalWord 0x30010001#32 ∧ IllegalWord 0x1000000A#32
      ∧ ¬ IllegalWord 0x10000009#32 := by
  refine ⟨.inl (by decide), .inr (.inl (by decide)), .inr (.inr (.inl ⟨_, rfl, by decide⟩)),
    .inr (.inr (.inl ⟨_, rfl, by decide⟩)), .inr (.inr (.inr (.inl (by decide)))),
    .inr (.inr (.inr (.inr (by decide)))), ?_⟩
  rintro (h | h | ⟨us, h, _⟩ | h | h)
  · exact absurd h (by decide)
  · exact absurd h (by decide)
  · exact absurd h (by rw [show unitsOf (BitVec.toNat 0x10000009#32 / 2 ^ 24) = none from rfl]; simp)
  · exact absurd h (by decide)
  · exact absurd h (by decide)

/-- A ready engine with one agent, 3, that has issued these words. -/
def issuing (ws : List Word) : State := { ready with agents := [(3, ⟨ws, [], []⟩)] }

/-- StepRunsDecodedCommand. -/
theorem witness_StepRunsDecodedCommand :
    (issuing [0x50010000#32]).agents = [(3, ⟨[0x50010000#32], [], []⟩)]
      ∧ (issuing [0x501A0000#32]).faulted = false
      ∧ decode [0x501A0000#32] = .ok (.lfoStep .LFO_A) [] := ⟨rfl, rfl, by decide⟩

/-- StepServesOneAgent: a state with the invariant from which the step goes on, in each of its three ways;
one where an agent waits for an operand and another has work; and one where no agent has work. -/
theorem witness_StepServesOneAgent :
    ((issuing [0x06000000#32]).Inv ∧ (∃ t, step (issuing [0x06000000#32]) = .next t))
      ∧ ((issuing [0x07000000#32]).Inv ∧ (∃ t, step (issuing [0x07000000#32]) = .next t))
      ∧ (({ ready with agents := [(3, ⟨[], [], [(.decay, 0#32)]⟩)] } : State).Inv
        ∧ ∃ t, step { ready with agents := [(3, ⟨[], [], [(.decay, 0#32)]⟩)] } = .next t)
      ∧ (((issuing [0x20000000#32]).issue 5 [0x06000000#32]).Inv
        ∧ ∃ t, step ((issuing [0x20000000#32]).issue 5 [0x06000000#32]) = .next t)
      ∧ (issuing [0x20000000#32]).Inv ∧ step (issuing [0x20000000#32]) = .fault .idle :=
  ⟨⟨inv_of_invCheck (by decide +kernel), _, rfl⟩, ⟨inv_of_invCheck (by decide +kernel), _, rfl⟩,
    ⟨inv_of_invCheck (by decide +kernel), _, rfl⟩, ⟨inv_of_invCheck (by decide +kernel), _, rfl⟩,
    inv_of_invCheck (by decide +kernel), rfl⟩

/-- The three ways an agent has work. -/
theorem witness_HasWork :
    (⟨[0x06000000#32], [], []⟩ : Agent).HasWork ∧ (⟨[0x07000000#32], [], []⟩ : Agent).HasWork
      ∧ (⟨[], [], [(.decay, 0#32)]⟩ : Agent).HasWork :=
  ⟨.inr (.inl ⟨.readStatus, [], by decide, by decide⟩), .inr (.inr ⟨_, _, rfl, .inl (by decide)⟩),
    .inl (List.cons_ne_nil _ _)⟩

/-- IllegalWordRaisesIllegalCommand. -/
theorem witness_IllegalWordRaises :
    (issuing [0x07000000#32, 5#32]).agents = [(3, ⟨[0x07000000#32, 5#32], [], []⟩)]
      ∧ (issuing [0x07000000#32, 5#32]).faulted = false ∧ IllegalWord 0x07000000#32 := ⟨rfl, rfl, .inl (by decide)⟩

/-- FaultedBlockAcceptsOnlyReadStatus, with a READ_STATUS to take and with a word that is not accepted. -/
theorem witness_FaultedBlock :
    ((issuing [0x06000000#32]).raise .lifecycle).Inv
      ∧ (∃ t, step ((issuing [0x06000000#32]).raise .lifecycle) = .next t)
      ∧ ((issuing [0x05000000#32]).raise .lifecycle).Inv
      ∧ step ((issuing [0x05000000#32]).raise .lifecycle) = .fault .stuck := ⟨inv_of_invCheck (by decide +kernel), ⟨_, rfl⟩, inv_of_invCheck (by decide +kernel), rfl⟩

/-- R1610 and log 25: the word left behind an illegal word is taken by its bits as a READ_STATUS. -/
theorem test_operand_left_behind_illegal_word :
    (match Host.Core.run core 2 (issuing [0x1000000A#32, 0x06000000#32]) with
      | .next t => decide ((t.agent 3).resp = [0x0000010F#32] ∧ (t.agent 3).queue = [])
      | _ => false) = true := by decide +kernel

/-- FaultStaysOverRuns, over two steps. -/
theorem witness_FaultStays :
    ((issuing [0x06000000#32, 0x06000000#32]).raise .lifecycle).faulted = true
      ∧ ∃ t, Host.Core.run core 2 ((issuing [0x06000000#32, 0x06000000#32]).raise .lifecycle) = .next t := ⟨rfl, _, rfl⟩

/-- StepKeepsInvariant, InvariantStepsAreSafe: a step of a state with the invariant. -/
theorem witness_StepKeepsInvariant :
    (issuing [0x501A0000#32]).Inv ∧ ∃ t, step (issuing [0x501A0000#32]) = .next t := ⟨inv_of_invCheck (by decide +kernel), _, rfl⟩

/-- IllegalLifecycleRaisesLifecycle: one command of each condition that is false. -/
theorem witness_IllegalLifecycle :
    lifecycleLegal ready (.arenaReserve 4#32) = false ∧ lifecycleLegal ready (.arenaCarve 4#32) = false
      ∧ lifecycleLegal ready .engineCreate = false ∧ lifecycleLegal ready .engineInit = false
      ∧ lifecycleLegal (created Config.tiny 544) (.dlReset .PD) = false ∧ ready.faulted = false
      ∧ (created Config.tiny 544).faulted = false ∧ wellFormed (.dlReset .PD) = true := by decide +kernel

/-- OnlyCarvesAndInitRaise: a carve and an initialisation that raise. -/
theorem witness_OnlyCarvesAndInitRaise :
    lifecycleLegal (reserved Config.tiny 16) (.arenaCarve 17#32) = true
      ∧ after (exec (.arenaCarve 17#32) (reserved Config.tiny 16)) State.faulted = true
      ∧ lifecycleLegal (created Config.tiny 540) .engineInit = true
      ∧ after (exec .engineInit (created Config.tiny 540)) State.faulted = true := by decide +kernel

/-- FlagTransitions, ResponseCounts, WhoWritesWhat: a command that completes, one that raises, and a carve
after READY. -/
theorem witness_NextState :
    (∃ t, exec (.lfoStep .LFO_A) ready = .next t ∧ t.faulted = ready.faulted)
      ∧ (∃ t, exec .engineCreate ready = .next t ∧ t.faulted ≠ ready.faulted)
      ∧ ready.ready = true ∧ ∃ t, exec (.arenaCarve 4#32) ready = .next t :=
  ⟨⟨_, rfl, rfl⟩, ⟨_, rfl, by decide⟩, rfl, _, rfl⟩

/-- UnitCommandsIgnoreParameters: at the first and the last unit-level opcode. -/
theorem witness_UnitCommandsIgnoreParameters :
    isUnitLevel (.dlProcess .PD 0#32) = true ∧ isUnitLevel (.dzPreset .DZ_A1 0#32) = true
      ∧ isUnitLevel (.processStereo 0#32 0#32) = false := by decide

/-- ArenaReserveZeroesTheArena. -/
theorem witness_ArenaReserve :
    (State.powerOn Config.tiny 0).faulted = false ∧ (State.powerOn Config.tiny 0).reserved = false := ⟨rfl, rfl⟩

/-- ArenaCarveBumpsTheOffset: a carve that ends at the capacity, and one word more. -/
theorem witness_ArenaCarve :
    (reserved Config.tiny 16).faulted = false ∧ (reserved Config.tiny 16).reserved = true
      ∧ (reserved Config.tiny 16).ready = false
      ∧ (reserved Config.tiny 16).arena.off + 16 ≤ (reserved Config.tiny 16).arena.cap
      ∧ (reserved Config.tiny 16).arena.cap < (reserved Config.tiny 16).arena.off + 20 := by decide +kernel

/-- EngineCreateFixesConstFields. -/
theorem witness_EngineCreate :
    (reserved Config.tiny 16).faulted = false ∧ (reserved Config.tiny 16).reserved = true
      ∧ (reserved Config.tiny 16).created = false := ⟨rfl, rfl, rfl⟩

/-- Every fixed length of TINY is below its capacity, and both its tables fit. -/
theorem tiny_checks :
    (∀ k ∈ fixedDelayUnits, ∃ n, ScaledLength Config.tiny k n ∧ n + 1 ≤ Config.tiny.maxLenOf k)
      ∧ ∀ rho, rho = Config.tiny.lfoRateA ∨ rho = Config.tiny.lfoRateB →
          ∃ n, TableLength Config.tiny rho n ∧ 1 ≤ n ∧ n ≤ Config.tiny.lfoTableMax := by
  have wf : Config.tiny.wf = true := by decide +kernel
  have len : ∀ k ∈ fixedDelayUnits, scaledLen Config.tiny k + 1 ≤ Config.tiny.maxLenOf k := by
    decide +kernel
  refine ⟨fun k hk => ⟨_, (scaledLength_iff wf k _).mpr rfl, len k hk⟩, ?_⟩
  rintro rho (rfl | rfl)
  · exact ⟨4, (tableLength_iff wf (by decide +kernel) 4).mpr (by decide +kernel), by decide⟩
  · exact ⟨8, (tableLength_iff wf (by decide +kernel) 8).mpr (by decide +kernel), by decide⟩

/-- EngineInitSetsUpTheEngine, at the least capacity. -/
theorem witness_EngineInit :
    (created Config.tiny 544).Inv ∧ (created Config.tiny 544).faulted = false
      ∧ (created Config.tiny 544).created = true ∧ (created Config.tiny 544).ready = false
      ∧ (created Config.tiny 544).cfg = Config.tiny
      ∧ 0 + carveTotal Config.tiny delayUnits = 544 := ⟨created_inv, by decide +kernel⟩

/-- EngineInitFaultsInOrder: a length of exactly MAXLEN, a table of one sample too many, and a capacity one byte
short of the last buffer. -/
theorem witness_EngineInitFaults :
    ((created { Config.tiny with refLen := Config.tiny.refLen.set 15 8 } 544).Inv
        ∧ ScaledLength { Config.tiny with refLen := Config.tiny.refLen.set 15 8 } .XAP2_B 8
        ∧ Config.tiny.maxLenOf .XAP2_B < 8 + 1)
      ∧ ((created { Config.tiny with lfoTableMax := 7 } 544).Inv
        ∧ (∀ k ∈ fixedDelayUnits, ∃ n, ScaledLength { Config.tiny with lfoTableMax := 7 } k n
            ∧ n + 1 ≤ Cfg.maxLenOf { Config.tiny with lfoTableMax := 7 } k)
        ∧ TableLength { Config.tiny with lfoTableMax := 7 } Config.tiny.lfoRateB (7 + 1))
      ∧ (created Config.tiny 543).Inv
        ∧ carveTotal Config.tiny (carveBefore .XAP2_B) ≤ 543
        ∧ 543 < carveTotal Config.tiny (carveBefore .XAP2_B) + 4 * Config.tiny.maxLenOf .XAP2_B :=
  ⟨⟨inv_of_invCheck (by decide +kernel),
      (scaledLength_iff (by decide +kernel) _ _).mpr (by decide +kernel), by decide +kernel⟩,
    ⟨inv_of_invCheck (by decide +kernel), tiny_checks.1,
      (tableLength_iff (by decide +kernel) (by decide +kernel) _).mpr (by decide +kernel)⟩,
    inv_of_invCheck (by decide +kernel), by decide +kernel, by decide +kernel⟩

/-- R24's examples: roundHalfAway of 2.5, -2.5 and a small negative value. -/
theorem test_roundHalfAway :
    roundHalfAway 0x40200000#32 = 3 ∧ roundHalfAway 0xC0200000#32 = -3
      ∧ roundHalfAway 0xB3D6BF95#32 = 0 := by decide +kernel

/-- R710's examples at FS = 48000: rates 12000, 0.7, 96000 and 100000. -/
theorem test_tableLen :
    [0x463B8000#32, 0x3F333333#32, 0x47BB8000#32, 0x47C35000#32].map (tableLen Config.tiny)
      = [4, 68571, 1, 0] := by decide +kernel

/-- EngineResetClearsSignalState, ProcessMonoBlendsWetAndDry, ProcessStereoBlendsBothChannels,
EngineOverwritesUnitWrites. -/
theorem witness_EngineCommands :
    ready.Inv ∧ ready.Running := ⟨ready_inv, ready_running⟩

/-- EngineOverwritesUnitWrites, its clause on the extra allpasses in smoothed mode. -/
theorem witness_EngineOverwritesExtra :
    ({ ready with params := { ready.params with smoothed := true } } : State).Inv
      ∧ ({ ready with params := { ready.params with smoothed := true } } : State).Running
      ∧ admits apKinds .XAP1_A = true := ⟨inv_of_invCheck (by decide +kernel), ⟨rfl, rfl⟩, rfl⟩

/-- SetParamClampsOneRegister, ReadParamAnswersTheRegister: each range of R121 at its boundaries, the bounds
themselves kept and the values next to them outside clamped (predelayMs has none above), a NaN, and 0 and 1
for register 9. -/
theorem witness_SetParam :
    ready.faulted = false
      ∧ ([(0x80000001, 0x00000000, 0x7F800000, 0x7F800000), (0x411FFFFF, 0x41200000, 0x46ABE000, 0x46ABE001),
          (0x80000001, 0x00000000, 0x3F800000, 0x3F800001), (0x80000001, 0x00000000, 0x42700000, 0x42700001),
          (0x43C7FFFF, 0x43C80000, 0x469C4000, 0x469C4001), (0x411FFFFF, 0x41200000, 0x453B8000, 0x453B8001),
          (0x80000001, 0x00000000, 0x42C80000, 0x42C80001)] : List (F32 × F32 × F32 × F32)).all
        (fun r => flt r.1 r.2.1 && !flt r.2.1 r.2.1 && !flt r.2.2.1 r.2.2.1
          && (flt r.2.2.1 r.2.2.2 || r.2.2.1 == 0x7F800000#32)) = true
      ∧ fIsNaN 0x7F800001#32 = true := by decide +kernel

/-- The bounds of R121's table are the nearest binary32 values of its numbers. -/
theorem test_paramRange_bounds :
    [10, 22000, 400, 20000, 3000, 60, 100, 1].map f32OfNat
      = [0x41200000#32, 0x46ABE000#32, 0x43C80000#32, 0x469C4000#32, 0x453B8000#32, 0x42700000#32,
          0x42C80000#32, 0x3F800000#32] := by decide +kernel

/-- SetControlBeginsTenWrites, SetControlWritesAllTen. -/
theorem witness_SetControl :
    (issuing [0x11000000#32, 1, 2, 3, 4, 5, 6, 7, 8, 9, 10]).agents
        = [(3, ⟨[0x11000000#32, 1, 2, 3, 4, 5, 6, 7, 8, 9, 10], [], []⟩)]
      ∧ (issuing [0x11000000#32, 1, 2, 3, 4, 5, 6, 7, 8, 9, 10]).faulted = false
      ∧ decode [0x11000000#32, 1, 2, 3, 4, 5, 6, 7, 8, 9, 10]
        = .ok (.setControl 1 2 3 4 5 6 7 8 9 10) [] := ⟨rfl, rfl, by decide⟩

/-- TargetRanges, PredelayLengthIsTheFloor. -/
theorem witness_Targets :
    ready.params.InRange ∧ ready.cfg.decayMax = 0x3F59999A#32 ∧ ready.cfg.wf = true := ⟨ready_inv.params, rfl, by decide +kernel⟩

/-- CoefficientsGlideTowardTargets, both clauses. -/
theorem witness_Coefficients :
    ready.cfg.dezipEnabled = false
      ∧ ({ ready with cfg := { Config.tiny with dezipEnabled := true } } : State).cfg.dezipEnabled = true := ⟨rfl, rfl⟩

/-- DefaultWetTaps, both clauses on the branches. -/
theorem witness_WetTaps :
    (BranchOut.mk 0#32 0#32 0#32 none 0#32).extra = none
      ∧ (BranchOut.mk 0#32 0#32 0#32 (some (1#32, 2#32)) 0#32).extra = some (1#32, 2#32) := ⟨rfl, rfl⟩

/-- R1240 with a table that is not the default: `0.7 ⊗ ((4 ⊖ 1) ⊕ 2) = 3.5`, the names taken from the list. -/
theorem test_wetTaps_other :
    (wetOut ⟨0x3F800000#32, 0x40000000#32, 0x40800000#32, none, 0#32⟩ ⟨0#32, 0#32, 0#32, none, 0#32⟩
      { ready with cfg := { Config.tiny with
        wetTaps := { WetTaps.default with offL := #v[.t3_A, .t1_A, .t2_A] } } }).1 = 0x40600000#32 := by
  decide +kernel

/-- BlendAtTheEnds, each clause. -/
theorem witness_Blend :
    NaNSupply (fun _ => 0x7FC00000#32)
      ∧ (fIsNaN 0x00000001#32 = false ∧ fmag 0x00000001#32 ≠ 0 ∧ fIsFinite 0x7F7FFFFF#32 = true)
      ∧ fmag 0x80000000#32 = 0 ∧ fIsFinite 0x7F800000#32 = false
      ∧ (fIsNaN 0x7F800000#32 = false ∧ fmag 0x7F800000#32 ≠ 0) := ⟨fun _ => rfl, by decide +kernel⟩

/-- DlProcessReadsThenWrites, SetDelayClampsToCapacity, ResetClearsOneBuffer, at the first and last DL unit. -/
theorem witness_DelayLine :
    ready.Inv ∧ ready.Running ∧ admits dlKinds .PD = true ∧ admits dlKinds .DL2_B = true := ⟨ready_inv, ready_running, rfl, rfl⟩

/-- PureDelayImpulse, at n = 1 and at n = L - 1. -/
theorem witness_PureDelay :
    admits dlKinds .PD = true
      ∧ (1 ≤ (ready.delay .PD).n ∧ (ready.delay .PD).n + 1 ≤ (ready.delay .PD).L
        ∧ (ready.delay .PD).w < (ready.delay .PD).L)
      ∧ ((ready.setLength .PD 7).delay .PD).n + 1 = ((ready.setLength .PD 7).delay .PD).L
      ∧ ∀ c, c < (ready.delay .PD).L → ready.bufRead .PD c = 0x00000000#32 := by decide +kernel

/-- BypassReturnsTheInput. -/
theorem witness_Bypass :
    ((ready.setLength .PD 0).delay .PD).n = 0 := by decide +kernel

/-- ApProcessUnmodulated, ApProcessModulated, AllpassSettersClamp, and the setters' clauses at their boundaries. -/
theorem witness_Allpass :
    ready.Inv ∧ ready.Running ∧ unitKind .XAP2_B = .AP ∧ admits apKinds .MAP_A = true
      ∧ admits apmKinds .MAP_B = true ∧ flt 0x80000001#32 0#32 = true ∧ flt 0x80000000#32 0#32 = false
      ∧ flt 0x3F7FFFFF#32 0x3F7FFFFF#32 = false ∧ flt 0x3F7FFFFF#32 0x3F800000#32 = true
      ∧ flt 0x7F7FFFFF#32 0x7F800000#32 = true := ⟨ready_inv, ready_running, by decide +kernel⟩

/-- LfoStepAndReset, LfoIsPeriodic. -/
theorem witness_Lfo :
    ready.Inv ∧ ready.Running ∧ admits lfoKinds .LFO_B = true
      ∧ (ready.osc .LFO_B).table.length = (ready.osc .LFO_B).N
      ∧ (ready.osc .LFO_B).idx < (ready.osc .LFO_B).N := ⟨ready_inv, ready_running, by decide +kernel⟩

/-- OpProcessFilters, both clauses, and OpSetCutoffAndReset. -/
theorem witness_OnePole :
    ready.Running ∧ unitKind .ILP = .OPL ∧ unitKind .DHP_B = .OPH ∧ admits opKinds .ILP = true := ⟨ready_running, rfl, rfl, rfl⟩

/-- SatProcessAndSetDrive, DzSmoothGlides, DzSetFactorAndPreset. -/
theorem witness_Saturator :
    ready.Running ∧ admits satKinds .SAT_A = true ∧ admits dzKinds .DZ_DRV = true := ⟨ready_running, rfl, rfl⟩

/-- RoundingIsNearestEven at its boundary: half a unit above the largest finite value, and just below. -/
theorem witness_Rounding :
    roundMag ((2 ^ 25 - 1) * 2 ^ 252) 1 = infMag
      ∧ roundMag ((2 ^ 25 - 1) * 2 ^ 252 - 1) 1 = 0x7F7FFFFF := by decide +kernel

/-- ArithmeticRoundsExactResults, ComparisonsFollowExactValues: finite operands whose sum is not zero, and
whose sum is; the divisor next to zero, and zero; the two infinities, the finite value next to one; a NaN next
to an infinity. -/
theorem witness_Arithmetic :
    fIsFinite 0x7F7FFFFF#32 = true ∧ fIsFinite 0x00000001#32 = true
      ∧ fUnits 0x7F7FFFFF#32 + fUnits 0x00000001#32 ≠ 0
      ∧ fUnits 0x3F800000#32 + fUnits 0xBF800000#32 = 0 ∧ fmag 0x00000001#32 ≠ 0
      ∧ fmag 0x80000000#32 = 0 ∧ fmag 0x7F800000#32 = 0x7F800000 ∧ fmag 0xFF800000#32 = 0x7F800000
      ∧ fsign 0x7F800000#32 ≠ fsign 0xFF800000#32
      ∧ fIsNaN 0x7F800000#32 = false ∧ fIsNaN 0x7F800001#32 = true := by decide +kernel

/-- FlushForcesSmallToZero: T_DN itself is kept and the value below it is flushed. -/
theorem witness_Flush :
    Config.tiny.wf = true ∧ flt (0x07C7625B#32 &&& 0x7FFFFFFF#32) Config.tiny.tDn = false
      ∧ flt (0x87C7625A#32 &&& 0x7FFFFFFF#32) Config.tiny.tDn = true := by decide +kernel

end Sys2Proof.Tests
end

section
/-! The magnitude patterns in the order of their values, and rounding (00_scope.md R20): where an exact value
lies among the patterns, which of its two neighbours it rounds to, and when that is an infinity. -/

namespace Sys2Proof.Numerics

open Sys2Proof Sys2Proof.Machine

/-! ## The value of a magnitude pattern -/

/-- A pattern as exponent and significand: `e` is 0 for a subnormal. The significand may be `2 ^ 24`, which
is the carry into the next exponent. -/
theorem magUnits_scaled {e m : Nat} (he : e = 0 ∨ 2 ^ 23 ≤ m) (hm : m ≤ 2 ^ 24) :
    magUnits (e * 2 ^ 23 + m) = m * 2 ^ e := by
  have hcases : m < 2 ^ 23 ∨ (2 ^ 23 ≤ m ∧ m < 2 ^ 24) ∨ m = 2 ^ 24 := by omega
  rcases hcases with hsub | ⟨hlo, hhi⟩ | rfl
  · obtain rfl : e = 0 := by omega
    rw [Nat.zero_mul, Nat.zero_add, magUnits, if_pos hsub, Nat.pow_zero, Nat.mul_one]
  · have hdiv : (e * 2 ^ 23 + m) / 2 ^ 23 - 1 = e := by omega
    have hmod : 2 ^ 23 + (e * 2 ^ 23 + m) % 2 ^ 23 = m := by omega
    rw [magUnits, if_neg (by omega), hdiv, hmod]
  · have hdiv : (e * 2 ^ 23 + 2 ^ 24) / 2 ^ 23 - 1 = e + 1 := by omega
    have hmod : 2 ^ 23 + (e * 2 ^ 23 + 2 ^ 24) % 2 ^ 23 = 2 ^ 23 := by omega
    rw [magUnits, if_neg (by omega), hdiv, hmod]
    ring

/-- Every pattern has such an exponent and significand. -/
theorem exists_scaled (n : Nat) :
    ∃ e m, (e = 0 ∨ 2 ^ 23 ≤ m) ∧ m < 2 ^ 24 ∧ n = e * 2 ^ 23 + m :=
  ⟨n / 2 ^ 23 - 1, n - (n / 2 ^ 23 - 1) * 2 ^ 23, by omega, by omega, by omega⟩

theorem magUnits_strictMono : StrictMono magUnits := by
  refine strictMono_nat_of_lt_succ fun n => ?_
  obtain ⟨e, m, he, hm, rfl⟩ := exists_scaled n
  rw [Nat.add_assoc, magUnits_scaled he hm.le, magUnits_scaled (by omega) hm]
  exact Nat.mul_lt_mul_of_pos_right m.lt_succ_self (by positivity)

@[simp] theorem magUnits_zero : magUnits 0 = 0 := rfl

/-- The largest finite value. -/
theorem magUnits_maxFinite : magUnits (infMag - 1) = (2 ^ 24 - 1) * 2 ^ 253 := by
  rw [show infMag - 1 = 253 * 2 ^ 23 + (2 ^ 24 - 1) by decide, magUnits_scaled (by omega) (by omega)]

/-- What the pattern of an infinity would be worth as a number: the next value after the largest finite one. -/
theorem magUnits_infMag : magUnits infMag = 2 ^ 24 * 2 ^ 253 := by
  rw [show infMag = 253 * 2 ^ 23 + 2 ^ 24 by decide, magUnits_scaled (by omega) (by omega)]

/-! ## Rounding to one of the two neighbours -/

/-- `num / den` lies from the value of `c` to just under that of `c + 1`, and `r` is the nearer of the two,
the even one at the midpoint. -/
structure RoundsBetween (num den c r : Nat) : Prop where
  le_num : magUnits c * den ≤ num
  num_lt : num < magUnits (c + 1) * den
  nearer : r = c ∧ (2 * num < magUnits c * den + magUnits (c + 1) * den
        ∨ (2 * num = magUnits c * den + magUnits (c + 1) * den ∧ c % 2 = 0))
    ∨ r = c + 1 ∧ (magUnits c * den + magUnits (c + 1) * den < 2 * num
        ∨ (2 * num = magUnits c * den + magUnits (c + 1) * den ∧ c % 2 = 1))

/-- The exponent `roundMag` takes leaves a significand of at most 24 bits, and of exactly 24 above the
subnormals. -/
theorem significand_bounds (q : Nat) :
    (q.log2 - 23 = 0 ∨ 2 ^ 23 ≤ q / 2 ^ (q.log2 - 23)) ∧ q / 2 ^ (q.log2 - 23) < 2 ^ 24 := by
  have hlt : q < 2 ^ (q.log2 + 1) := Nat.lt_log2_self
  rcases Nat.eq_zero_or_pos (q.log2 - 23) with hz | hpos
  · have hle : 2 ^ (q.log2 + 1) ≤ 2 ^ 24 := Nat.pow_le_pow_right (by norm_num) (by omega)
    exact ⟨.inl hz, by rw [hz, Nat.pow_zero, Nat.div_one]; omega⟩
  · have hq : q ≠ 0 := by rintro rfl; simp at hpos
    have hle : 2 ^ q.log2 ≤ q := Nat.log2_self_le hq
    have split : ∀ k, 2 ^ k * 2 ^ (q.log2 - 23) = 2 ^ (k + (q.log2 - 23)) := fun k => (pow_add 2 k _).symm
    refine ⟨.inr ?_, ?_⟩
    · rw [Nat.le_div_iff_mul_le (by positivity), split, Nat.add_sub_cancel' (by omega)]
      exact hle
    · rw [Nat.div_lt_iff_lt_mul (by positivity), split, show 24 + (q.log2 - 23) = q.log2 + 1 by omega]
      exact hlt

/-- What `roundMag` computes: one of the two neighbours, or an infinity where that is beyond them all. -/
theorem roundMag_eq_min (num : Nat) {den : Nat} (hden : 0 < den) :
    ∃ c r, RoundsBetween num den c r ∧ roundMag num den = min r infMag := by
  obtain ⟨e, he⟩ : ∃ e, e = (num / den).log2 - 23 := ⟨_, rfl⟩
  obtain ⟨hsub, hlt⟩ := significand_bounds (num / den)
  rw [← he, Nat.div_div_eq_div_mul] at hsub hlt
  have hround : roundMag num den = min (e * 2 ^ 23 +
      if 2 * (num % (den * 2 ^ e)) < den * 2 ^ e
          ∨ (2 * (num % (den * 2 ^ e)) = den * 2 ^ e ∧ num / (den * 2 ^ e) % 2 = 0)
        then num / (den * 2 ^ e) else num / (den * 2 ^ e) + 1) infMag := by rw [he]; rfl
  have hd : 0 < den * 2 ^ e := by positivity
  have hdiv := Nat.div_add_mod num (den * 2 ^ e)
  have hmod := Nat.mod_lt num hd
  generalize num / (den * 2 ^ e) = m at *
  generalize num % (den * 2 ^ e) = rem at *
  have hlow : magUnits (e * 2 ^ 23 + m) * den = den * 2 ^ e * m := by
    rw [magUnits_scaled hsub hlt.le]; ring
  have hhigh : magUnits (e * 2 ^ 23 + m + 1) * den = den * 2 ^ e * m + den * 2 ^ e := by
    rw [Nat.add_assoc, magUnits_scaled (by omega) hlt, Nat.succ_eq_add_one]; ring
  refine ⟨e * 2 ^ 23 + m, _, ⟨?_, ?_, ?_⟩, hround⟩
  · omega
  · omega
  · rw [hlow, hhigh]
    split <;> omega

/-- The chosen neighbour is at least as near as every other pattern, and even where another is as near. -/
theorem RoundsBetween.nearest {num den c r : Nat} (hden : 0 < den) (h : RoundsBetween num den c r) {m : Nat}
    (hm : m ≠ r) :
    ((magUnits r * den : Int) - num).natAbs ≤ ((magUnits m * den : Int) - num).natAbs
      ∧ (((magUnits r * den : Int) - num).natAbs = ((magUnits m * den : Int) - num).natAbs → r % 2 = 0) := by
  obtain ⟨hlo, hhi, hnear⟩ := h
  have hmono : StrictMono fun n => magUnits n * den := magUnits_strictMono.mul_const hden
  -- `m` is one of the two neighbours, or lies beyond one of them
  have hpos : m = c ∨ m = c + 1 ∨ magUnits m * den < magUnits c * den
      ∨ magUnits (c + 1) * den < magUnits m * den := by
    rcases lt_trichotomy m c with hlt | rfl | hgt
    · exact .inr (.inr (.inl (hmono hlt)))
    · exact .inl rfl
    · rcases Nat.eq_or_lt_of_le hgt with heq | hgt'
      · exact .inr (.inl heq.symm)
      · exact .inr (.inr (.inr (hmono hgt')))
  simp only [← Nat.cast_mul]
  rcases hnear with ⟨rfl, hnear⟩ | ⟨rfl, hnear⟩ <;> rcases hpos with rfl | rfl | hlt | hgt <;> omega

/-- Overflow: the midpoint above the largest finite value, which is odd, goes up. -/
theorem RoundsBetween.infMag_le_iff {num den c r : Nat} (hden : 0 < den) (h : RoundsBetween num den c r) :
    infMag ≤ r ↔ (2 ^ 25 - 1) * 2 ^ 252 * den ≤ num := by
  obtain ⟨hlo, hhi, hnear⟩ := h
  have hmono : ∀ {m n}, m ≤ n → magUnits m * den ≤ magUnits n * den := fun hmn =>
    Nat.mul_le_mul_right den (magUnits_strictMono.monotone hmn)
  have hmax : magUnits (infMag - 1) * den = (2 ^ 25 - 2) * (2 ^ 252 * den) := by
    rw [magUnits_maxFinite]; ring
  have hinf : magUnits infMag * den = 2 ^ 25 * (2 ^ 252 * den) := by
    rw [magUnits_infMag]; ring
  have hunit : 0 < 2 ^ 252 * den := by positivity
  rw [Nat.mul_assoc]
  generalize 2 ^ 252 * den = u at *
  rcases lt_trichotomy (c + 1) infMag with hlt | heq | hgt
  · have := hmono (show c + 1 ≤ infMag - 1 by omega)
    omega
  · obtain rfl : c = infMag - 1 := by omega
    rw [show infMag - 1 + 1 = infMag from rfl, hmax, hinf] at hnear
    have hodd : (infMag - 1) % 2 = 1 := rfl
    omega
  · have := hmono (show infMag ≤ c by omega)
    omega

theorem roundMag_le_infMag (num den : Nat) : roundMag num den ≤ infMag := Nat.min_le_right _ _

/-- Settles O57: the exact value lies between two neighbouring patterns, `roundMag` takes the nearer one, and
no other pattern is between them. -/
theorem roundingIsNearestEven : Obligations.RoundingIsNearestEven := by
  intro num den hden
  obtain ⟨c, r, hr, hround⟩ := roundMag_eq_min num hden
  refine ⟨?_, fun hne => ?_⟩
  · rw [hround, min_eq_right_iff]
    exact hr.infMag_le_iff hden
  · have hlt : roundMag num den < infMag := lt_of_le_of_ne (roundMag_le_infMag num den) hne
    obtain rfl : roundMag num den = r := by omega
    exact ⟨hlt, fun m _ hm => hr.nearest hden hm⟩

end Sys2Proof.Numerics
end

section
/-! Patterns as sign and magnitude, and from that the arithmetic (R20, R22), the comparisons (R21) and the
flush (R23). -/

namespace Sys2Proof.Numerics

open Sys2Proof Sys2Proof.Machine

/-! ## Sign and magnitude -/

theorem fsign_eq_decide (a : F32) : fsign a = decide (2 ^ 31 ≤ a.toNat) := BitVec.msb_eq_decide a

/-- A pattern is its sign and its magnitude. -/
theorem toNat_eq_sign_mag (a : F32) : a.toNat = (if fsign a then 2 ^ 31 else 0) + fmag a := by
  have hlt := a.isLt
  simp only [fsign_eq_decide, fmag, decide_eq_true_eq]
  split <;> omega

theorem eq_of_sign_mag {a b : F32} (hs : fsign a = fsign b) (hm : fmag a = fmag b) : a = b :=
  BitVec.eq_of_toNat_eq (by rw [toNat_eq_sign_mag a, toNat_eq_sign_mag b, hs, hm])

theorem toNat_fpack (s : Bool) {m : Nat} (hm : m < 2 ^ 31) :
    (fpack s m).toNat = (if s then 2 ^ 31 else 0) + m := by
  rw [fpack, BitVec.toNat_ofNat, Nat.mod_eq_of_lt]
  split <;> omega

theorem fmag_fpack (s : Bool) {m : Nat} (hm : m < 2 ^ 31) : fmag (fpack s m) = m := by
  rw [fmag, toNat_fpack s hm]
  split <;> omega

theorem fsign_fpack (s : Bool) {m : Nat} (hm : m < 2 ^ 31) : fsign (fpack s m) = s := by
  rw [fsign_eq_decide, toNat_fpack s hm]
  cases s
  · exact decide_eq_false (by simpa using hm)
  · exact decide_eq_true (by simp)

@[simp] theorem fmag_fpack_zero (s : Bool) : fmag (fpack s 0) = 0 := fmag_fpack s (by norm_num)
@[simp] theorem fsign_fpack_zero (s : Bool) : fsign (fpack s 0) = s := fsign_fpack s (by norm_num)
@[simp] theorem fmag_fpack_infMag (s : Bool) : fmag (fpack s infMag) = infMag := fmag_fpack s (by decide)
@[simp] theorem fsign_fpack_infMag (s : Bool) : fsign (fpack s infMag) = s := fsign_fpack s (by decide)

theorem roundMag_lt (num den : Nat) : roundMag num den < 2 ^ 31 :=
  lt_of_le_of_lt (roundMag_le_infMag num den) (by decide)

@[simp] theorem fmag_fround (s : Bool) (num den : Nat) : fmag (fround s num den) = roundMag num den :=
  fmag_fpack s (roundMag_lt num den)

@[simp] theorem fsign_fround (s : Bool) (num den : Nat) : fsign (fround s num den) = s :=
  fsign_fpack s (roundMag_lt num den)

/-- The sign flip keeps the magnitude (R21). -/
@[simp] theorem fmag_fneg (a : F32) : fmag (fneg a) = fmag a := by
  rw [fneg, fmag, BitVec.toNat_xor, Nat.xor_mod_two_pow]
  exact Nat.xor_zero _

/-- The absolute value is the magnitude itself (R21). -/
theorem toNat_fabs (a : F32) : (fabs a).toNat = fmag a := by
  rw [fabs, BitVec.toNat_and]
  exact Nat.and_two_pow_sub_one_eq_mod a.toNat 31

@[simp] theorem fmag_fabs (a : F32) : fmag (fabs a) = fmag a := by
  rw [fmag, toNat_fabs, fmag, Nat.mod_mod]

@[simp] theorem fIsNaN_fneg (a : F32) : fIsNaN (fneg a) = fIsNaN a := by rw [fIsNaN, fmag_fneg, fIsNaN]
@[simp] theorem fIsNaN_fabs (a : F32) : fIsNaN (fabs a) = fIsNaN a := by rw [fIsNaN, fmag_fabs, fIsNaN]

/-! ## The classes exclude each other -/

theorem not_nan_of_finite {a : F32} (h : fIsFinite a = true) : fIsNaN a = false := by
  simp only [fIsFinite, fIsNaN, decide_eq_true_eq, decide_eq_false_iff_not] at *
  omega

theorem not_inf_of_finite {a : F32} (h : fIsFinite a = true) : fIsInf a = false := by
  simp only [fIsFinite, fIsInf, decide_eq_true_eq, decide_eq_false_iff_not] at *
  omega

theorem inf_of_fmag {a : F32} (h : fmag a = infMag) : fIsInf a = true := decide_eq_true h

theorem not_nan_of_fmag {a : F32} (h : fmag a = infMag) : fIsNaN a = false :=
  decide_eq_false (by rw [h]; exact lt_irrefl _)

theorem fmag_ne_zero_of_inf {a : F32} (h : fmag a = infMag) : fmag a ≠ 0 := by
  rw [h]; decide

theorem natAbs_fUnits (a : F32) : (fUnits a).natAbs = magUnits (fmag a) := by
  unfold fUnits
  split <;> omega

/-! ## NaN operands -/

theorem arith_of_nan (q : F32) {a b : F32} (h : fIsNaN a = true ∨ fIsNaN b = true) :
    fadd q a b = q ∧ fsub q a b = q ∧ fmul q a b = q ∧ fdiv q a b = q := by
  have hor : (fIsNaN a || fIsNaN b) = true := by rwa [Bool.or_eq_true]
  simp [fadd, fsub, fmul, fdiv, hor]

/-! ## Finite operands -/

section Finite
variable {a b : F32} (q : F32) (ha : fIsFinite a = true) (hb : fIsFinite b = true)
include ha hb

theorem fadd_of_finite :
    fadd q a b = if fUnits a + fUnits b = 0 then fpack (fsign a && fsign b) 0
      else fround (decide (fUnits a + fUnits b < 0)) (fUnits a + fUnits b).natAbs 1 := by
  simp [fadd, not_nan_of_finite, not_inf_of_finite, ha, hb]

theorem fmul_of_finite :
    fmul q a b = fround (fsign a != fsign b) ((fUnits a).natAbs * (fUnits b).natAbs) (2 ^ 149) := by
  simp [fmul, not_nan_of_finite, not_inf_of_finite, ha, hb, natAbs_fUnits]

theorem fdiv_of_finite :
    fdiv q a b = if fmag b = 0 then (if fmag a = 0 then q else fpack (fsign a != fsign b) infMag)
      else fround (fsign a != fsign b) ((fUnits a).natAbs * 2 ^ 149) (fUnits b).natAbs := by
  simp [fdiv, not_nan_of_finite, not_inf_of_finite, ha, hb, natAbs_fUnits]

end Finite

/-! ## An infinity and a finite operand -/

section InfFinite
variable {a b : F32} (q : F32) (ha : fmag a = infMag) (hb : fIsFinite b = true)
include ha hb

theorem fadd_of_inf_finite : fadd q a b = a ∧ fadd q b a = a := by
  simp [fadd, not_nan_of_fmag ha, inf_of_fmag ha, not_nan_of_finite hb, not_inf_of_finite hb]

theorem fmul_of_inf_finite :
    fmul q a b = (if fmag b = 0 then q else fpack (fsign a != fsign b) infMag)
      ∧ fmul q b a = (if fmag b = 0 then q else fpack (fsign b != fsign a) infMag) := by
  simp [fmul, not_nan_of_fmag ha, inf_of_fmag ha, not_nan_of_finite hb, fmag_ne_zero_of_inf ha]

theorem fdiv_of_inf_finite :
    fdiv q a b = fpack (fsign a != fsign b) infMag ∧ fdiv q b a = fpack (fsign b != fsign a) 0 := by
  simp [fdiv, not_nan_of_fmag ha, inf_of_fmag ha, not_nan_of_finite hb, not_inf_of_finite hb]

end InfFinite

/-! ## Two infinities -/

section InfInf
variable {a b : F32} (q : F32) (ha : fmag a = infMag) (hb : fmag b = infMag)
include ha hb

theorem fadd_of_inf_inf : fadd q a b = if fsign a = fsign b then a else q := by
  simp only [fadd, not_nan_of_fmag ha, not_nan_of_fmag hb, inf_of_fmag ha, inf_of_fmag hb]
  cases fsign a <;> cases fsign b <;> rfl

theorem fmul_of_inf_inf : fmul q a b = fpack (fsign a != fsign b) infMag := by
  simp [fmul, not_nan_of_fmag ha, not_nan_of_fmag hb, inf_of_fmag ha, fmag_ne_zero_of_inf ha,
    fmag_ne_zero_of_inf hb]

theorem fdiv_of_inf_inf : fdiv q a b = q := by
  simp [fdiv, not_nan_of_fmag ha, not_nan_of_fmag hb, inf_of_fmag ha, inf_of_fmag hb]

end InfInf

/-- Settles O58, by the classes of the two operands: finite, infinite or NaN. -/
theorem arithmeticRoundsExactResults : Obligations.ArithmeticRoundsExactResults := by
  intro q a b
  refine ⟨fun ha hb => ?_, arith_of_nan q, fun ha hb => ?_, fun ha hb => ?_, rfl⟩
  · rw [fadd_of_finite q ha hb, fmul_of_finite q ha hb, fdiv_of_finite q ha hb]
    refine ⟨fun hne => ?_, fun he => ?_, ?_, fun hne => ?_, fun hb0 ha0 => ?_, fun hb0 ha0 => ?_⟩
    · rw [if_neg hne]; exact ⟨fmag_fround .., fsign_fround ..⟩
    · rw [if_pos he]; exact ⟨fmag_fpack_zero _, fsign_fpack_zero _⟩
    · exact ⟨fmag_fround .., fsign_fround ..⟩
    · rw [if_neg hne]; exact ⟨fmag_fround .., fsign_fround ..⟩
    · rw [if_pos hb0, if_neg ha0]; exact ⟨fmag_fpack_infMag _, fsign_fpack_infMag _⟩
    · rw [if_pos hb0, if_pos ha0]
  · obtain ⟨hadd, hadd'⟩ := fadd_of_inf_finite q ha hb
    obtain ⟨hmul, hmul'⟩ := fmul_of_inf_finite q ha hb
    obtain ⟨hdiv, hdiv'⟩ := fdiv_of_inf_finite q ha hb
    refine ⟨hadd, hadd', fun hne => ?_, fun he => ?_, ?_, ?_⟩
    · rw [hmul, hmul', if_neg hne, if_neg hne, bne_comm (a := fsign b)]
      rintro r (rfl | rfl) <;> exact ⟨fmag_fpack_infMag _, fsign_fpack_infMag _⟩
    · rw [hmul, hmul', if_pos he, if_pos he]; exact ⟨rfl, rfl⟩
    · rw [hdiv]; exact ⟨fmag_fpack_infMag _, fsign_fpack_infMag _⟩
    · rw [hdiv']; exact ⟨fmag_fpack_zero _, fsign_fpack_zero _⟩
  · rw [fadd_of_inf_inf q ha hb, fmul_of_inf_inf q ha hb, fdiv_of_inf_inf q ha hb]
    exact ⟨fun he => if_pos he, fun hne => if_neg hne, ⟨fmag_fpack_infMag _, fsign_fpack_infMag _⟩, rfl⟩

/-! ## Comparisons -/

theorem flt_iff {a b : F32} (ha : fIsNaN a = false) (hb : fIsNaN b = false) :
    flt a b = true ↔ fkey a < fkey b := by
  simp [flt, ha, hb]

theorem fle_iff {a b : F32} (ha : fIsNaN a = false) (hb : fIsNaN b = false) :
    fle a b = true ↔ fkey a ≤ fkey b := by
  simp [fle, ha, hb]

theorem compare_of_nan {a b : F32} (h : fIsNaN a = true ∨ fIsNaN b = true) :
    flt a b = false ∧ fle a b = false := by
  rcases h with h | h <;> simp [flt, fle, h]

/-- The key of a pattern orders it by its exact value. -/
theorem fkey_lt_iff (a b : F32) : fkey a < fkey b ↔ fUnits a < fUnits b := by
  have hab := magUnits_strictMono.lt_iff_lt (a := fmag a) (b := fmag b)
  have hba := magUnits_strictMono.lt_iff_lt (a := fmag b) (b := fmag a)
  have ha := magUnits_strictMono.lt_iff_lt (a := 0) (b := fmag a)
  have hb := magUnits_strictMono.lt_iff_lt (a := 0) (b := fmag b)
  rw [magUnits_zero] at ha hb
  unfold fkey fUnits
  cases fsign a <;> cases fsign b <;> simp only [Bool.false_eq_true, if_true, if_false] <;> omega

theorem fkey_le_iff (a b : F32) : fkey a ≤ fkey b ↔ fUnits a ≤ fUnits b := by
  rw [← not_lt, ← not_lt, fkey_lt_iff]

/-- The infinities have the two extreme keys, and no other pattern has them. -/
theorem fkey_bounds {a : F32} (h : fIsNaN a = false) :
    -(infMag : Int) ≤ fkey a ∧ fkey a ≤ infMag
      ∧ (fkey a = infMag ↔ a = 0x7F800000#32) ∧ (fkey a = -(infMag : Int) ↔ a = 0xFF800000#32) := by
  have hle : fmag a ≤ infMag := by simpa [fIsNaN] using h
  have hpos : 0 < infMag := by decide
  refine ⟨?_, ?_, ⟨fun hk => ?_, fun e => by subst e; rfl⟩, ⟨fun hk => ?_, fun e => by subst e; rfl⟩⟩
  all_goals unfold fkey at *
  · split <;> omega
  · split <;> omega
  · cases hs : fsign a with
    | true => rw [hs, if_pos rfl] at hk; omega
    | false =>
      rw [hs, if_neg Bool.false_ne_true] at hk
      exact eq_of_sign_mag hs (by exact_mod_cast hk)
  · cases hs : fsign a with
    | true =>
      rw [hs, if_pos rfl] at hk
      exact eq_of_sign_mag hs (show fmag a = infMag by omega)
    | false => rw [hs, if_neg Bool.false_ne_true] at hk; omega

theorem fkey_posInf : fkey 0x7F800000#32 = infMag := rfl
theorem fkey_negInf : fkey 0xFF800000#32 = -(infMag : Int) := rfl

/-- Settles O59: a pattern's key orders it as its exact value does, between the keys of the infinities. -/
theorem comparisonsFollowExactValues : Obligations.ComparisonsFollowExactValues := by
  intro a b
  refine ⟨fun ha hb => ?_, compare_of_nan, fun ha => ?_, rfl, fun _ => rfl⟩
  · rw [flt_iff (not_nan_of_finite ha) (not_nan_of_finite hb), fkey_lt_iff,
      fle_iff (not_nan_of_finite ha) (not_nan_of_finite hb), fkey_le_iff]
    exact ⟨Iff.rfl, Iff.rfl⟩
  · have hp : fIsNaN 0x7F800000#32 = false := rfl
    have hn : fIsNaN 0xFF800000#32 = false := rfl
    obtain ⟨hlo, hhi, htop, hbot⟩ := fkey_bounds ha
    simp only [← Bool.not_eq_true, flt_iff, fle_iff, ha, hp, hn, fkey_posInf, fkey_negInf, ne_eq, ← htop,
      ← hbot]
    omega

/-! ## The flush -/

theorem fflush_of_below {t y : F32} (h : flt (fabs y) t = true) : fflush t y = 0#32 := if_pos h

theorem fflush_of_not_below {t y : F32} (h : flt (fabs y) t = false) : fflush t y = y :=
  if_neg (by rw [h]; exact Bool.false_ne_true)

/-- R45 asks for a threshold above zero. -/
theorem tDn_pos {c : Cfg} (h : c.wf = true) : flt 0#32 c.tDn = true := by
  simp only [Cfg.wf, Bool.and_eq_true] at h
  obtain ⟨⟨_, hpos⟩, _⟩ := h
  exact hpos

/-- Settles O60: a NaN is below nothing, and the absolute value of negative zero is zero, which is below
`T_DN` (R45). -/
theorem flushForcesSmallToZero : Obligations.FlushForcesSmallToZero := by
  intro c y hc
  refine ⟨fflush_of_below, fflush_of_not_below, fun hnan => fflush_of_not_below ?_, fflush_of_below ?_⟩
  · exact (compare_of_nan (.inl (by rwa [fIsNaN_fabs]))).1
  · exact tDn_pos hc

end Sys2Proof.Numerics
end

section
/-! What every command but those that set the block up leaves alone, and the invariant along with it: the
relation `Evolves`, and one rule for each update of the state. -/

namespace Sys2Proof.Keeping

open Sys2Proof Sys2Proof.Machine

/-! ## The relation -/

/-- Nothing that ENGINE_INIT leaves alone is written: the configuration, the parameter registers, RESERVED and
CREATED, the capacity, the size of each buffer and the links (R101, R105, R130). -/
structure SameBuild (s t : State) : Prop where
  cfg : t.cfg = s.cfg := by rfl
  params : t.params = s.params := by rfl
  reserved : t.reserved = s.reserved := by rfl
  created : t.created = s.created := by rfl
  cap : t.arena.cap = s.arena.cap := by rfl
  size : ∀ k, (t.delay k).L = (s.delay k).L := by exact fun _ => rfl
  link : ∀ k, (t.modulation k).lfo = (s.modulation k).lfo := by exact fun _ => rfl

theorem SameBuild.trans {s t u : State} (h : SameBuild s t) (g : SameBuild t u) : SameBuild s u where
  cfg := g.cfg.trans h.cfg
  params := g.params.trans h.params
  reserved := g.reserved.trans h.reserved
  created := g.created.trans h.created
  cap := g.cap.trans h.cap
  size k := (g.size k).trans (h.size k)
  link k := (g.link k).trans (h.link k)

/-- Nor is anything written that only a command setting the block up may write (R204): READY, the carved
offset, the place of each buffer and the tables. -/
structure SameSetup (s t : State) : Prop extends SameBuild s t where
  ready : t.ready = s.ready := by rfl
  off : t.arena.off = s.arena.off := by rfl
  place : ∀ k, (t.delay k).base = (s.delay k).base := by exact fun _ => rfl
  period : ∀ k, (t.osc k).N = (s.osc k).N := by exact fun _ => rfl
  table : ∀ k, (t.osc k).table = (s.osc k).table := by exact fun _ => rfl

theorem SameSetup.trans {s t u : State} (h : SameSetup s t) (g : SameSetup t u) : SameSetup s u where
  toSameBuild := h.toSameBuild.trans g.toSameBuild
  ready := g.ready.trans h.ready
  off := g.off.trans h.off
  place k := (g.place k).trans (h.place k)
  period k := (g.period k).trans (h.period k)
  table k := (g.table k).trans (h.table k)

theorem SameSetup.wf {s t : State} (h : SameSetup s t) (hs : s.cfg.wf = true) : t.cfg.wf = true :=
  (congrArg Cfg.wf h.cfg).trans hs

/-- The set-up stays and the invariant is kept. -/
structure Evolves (s t : State) : Prop where
  setup : SameSetup s t
  keeps : s.Inv → t.Inv

theorem Evolves.ready {s t : State} (h : Evolves s t) : t.ready = s.ready := h.setup.ready

theorem Evolves.refl (s : State) : Evolves s s := ⟨{}, id⟩

theorem Evolves.trans {s t u : State} (h : Evolves s t) (g : Evolves t u) : Evolves s u :=
  ⟨h.setup.trans g.setup, g.keeps ∘ h.keeps⟩

/-- A property of a unit's value holds after a write if it held before and holds of the value written. -/
theorem bankGet_bankSet_of {α : Type} {n : Nat} {slot : UnitId → Option (Fin n)} {v : Vector α n} {d x : α}
    {j k : UnitId} (P : α → Prop) (hslot : SlotInjective slot) (hold : P (bankGet slot v d j))
    (hnew : j = k → P x) : P (bankGet slot (bankSet slot v k x) d j) := by
  by_cases hjk : j = k
  · subst hjk
    cases hj : slot j with
    | none => rwa [bankSet_none v x hj]
    | some i => rw [bankGet_bankSet_same slot v j x d (by rw [hj]; rfl)]; exact hnew rfl
  · rwa [bankGet_bankSet_other hslot v k j x d hjk]

/-! The same for each bank. -/

theorem setDelay_of (P : Delay → Prop) {t : State} {j k : UnitId} {u : Delay} (hold : P (t.delay j))
    (hnew : j = k → P u) : P ((t.setDelay k u).delay j) :=
  bankGet_bankSet_of P delaySlot_injective hold hnew

theorem setAlpha_of (P : F32 → Prop) {t : State} {j k : UnitId} {a : F32} (hold : P (t.alpha j))
    (hnew : j = k → P a) : P ((t.setAlpha k a).alpha j) :=
  bankGet_bankSet_of P allpassSlot_injective hold hnew

theorem setModulation_of (P : Modulation → Prop) {t : State} {j k : UnitId} {m : Modulation}
    (hold : P (t.modulation j)) (hnew : j = k → P m) : P ((t.setModulation k m).modulation j) :=
  bankGet_bankSet_of P modSlot_injective hold hnew

theorem setOsc_of (P : Oscillator → Prop) {t : State} {j k : UnitId} {o : Oscillator} (hold : P (t.osc j))
    (hnew : j = k → P o) : P ((t.setOsc k o).osc j) :=
  bankGet_bankSet_of P lfoSlot_injective hold hnew

theorem setDezip_of (P : Dezipper → Prop) {t : State} {j k : UnitId} {d : Dezipper} (hold : P (t.dezip j))
    (hnew : j = k → P d) : P ((t.setDezip k d).dezip j) :=
  bankGet_bankSet_of P dzSlot_injective hold hnew

/-! What holds of every listed byte, and of the bytes written, holds after a write. -/

theorem forall_mem_memWriteByte {P : Host.Cell → Prop} {m : Memory} {a : Nat} {v : Byte} (hold : ∀ c ∈ m, P c)
    (hnew : P (a, v)) : ∀ c ∈ memWriteByte m a v, P c := fun c hc => by
  rcases mem_sparsePut _ _ _ _ _ hc with rfl | hc
  · exact hnew
  · exact hold c hc

theorem forall_mem_memWriteWord {P : Host.Cell → Prop} {m : Memory} {a : Nat} {v : Word} (hold : ∀ c ∈ m, P c)
    (hnew : ∀ i < 4, ∀ b, P (a + i, b)) : ∀ c ∈ memWriteWord m a v, P c :=
  forall_mem_memWriteByte (forall_mem_memWriteByte (forall_mem_memWriteByte (forall_mem_memWriteByte hold
    (hnew 0 (by decide) _)) (hnew 1 (by decide) _)) (hnew 2 (by decide) _)) (hnew 3 (by decide) _)

section
variable {s t : State} (h : Evolves s t)
include h

/-! ## Updates that the invariant does not look at -/

/-- Filter memories, drives, accumulators and the model's own counters are in no invariant. -/
theorem Evolves.unseen {u : State}
    (hu : u = { t with
      poles := u.poles, drives := u.drives, xfbA := u.xfbA, xfbB := u.xfbB, cur := u.cur,
      draws := u.draws }) : Evolves s u := by
  rw [hu]
  exact h.trans ⟨{}, fun ht => { ht with
    built := fun hc => { ht.built hc with }
    units := fun hr => { ht.units hr with } }⟩

theorem Evolves.tick : Evolves s t.tick := h.unseen (by rfl)

theorem Evolves.setPole (k : UnitId) (p : OnePole) : Evolves s (t.setPole k p) := h.unseen (by rfl)

theorem Evolves.setDrive (k : UnitId) (d : F32) : Evolves s (t.setDrive k d) := h.unseen (by rfl)

theorem Evolves.setFeedback (a b : F32) : Evolves s (t.setFeedback a b) := h.unseen (by rfl)

/-! ## The ports and the fault -/

theorem Evolves.setAgent (a : Nat) (ag : Agent) : Evolves s (t.setAgent a ag) :=
  h.trans ⟨{}, fun ht => { ht with
    agentsWf := sparseWf_put _ _ _ _ ht.agentsWf
    built := fun hc => { ht.built hc with }
    units := fun hr => { ht.units hr with } }⟩

theorem Evolves.respond (v : Word) : Evolves s (t.respond v) := h.setAgent _ _

theorem Evolves.raise {c : FaultCode} (hc : c ≠ .none) : Evolves s (t.raise c) :=
  h.trans ⟨{}, fun ht => { ht with
    faultCode := by simp [hc]
    built := fun hr => { ht.built hr with }
    units := fun hr => { ht.units hr with } }⟩

/-! ## Unit fields -/

theorem Evolves.setDelay {k : UnitId} {u : Delay} (hsize : u.L = (t.delay k).L)
    (hplace : u.base = (t.delay k).base)
    (hok : t.Inv → t.ready = true → k ∈ delayUnits → u.w < u.L ∧ u.n + 1 ≤ u.L) :
    Evolves s (t.setDelay k u) := by
  have size : ∀ j, ((t.setDelay k u).delay j).L = (t.delay j).L := fun j =>
    setDelay_of (fun x => x.L = (t.delay j).L) rfl (by rintro rfl; exact hsize)
  have place : ∀ j, ((t.setDelay k u).delay j).base = (t.delay j).base := fun j =>
    setDelay_of (fun x => x.base = (t.delay j).base) rfl
      (by rintro rfl; exact hplace)
  refine h.trans ⟨{ size := size, place := place }, fun ht => { ht with
    built := fun hc => { ht.built hc with
      capacities := fun j hj => (size j).trans ((ht.built hc).capacities j hj) }
    units := fun hr => { ht.units hr with
      cursor := fun j hj => setDelay_of (fun x => x.w < x.L)
        ((ht.units hr).cursor j hj) (by rintro rfl; exact (hok ht hr hj).1)
      length := fun j hj => setDelay_of (fun x => x.n + 1 ≤ x.L)
        ((ht.units hr).length j hj) (by rintro rfl; exact (hok ht hr hj).2)
      aligned := fun j hj => by rw [place]; exact (ht.units hr).aligned j hj
      region := fun j hj => by rw [place, size]; exact (ht.units hr).region j hj }
    regions := fun hr i hi j hj hij => by
      rw [place, size, place, size]; exact ht.regions hr i hi j hj hij }⟩

theorem Evolves.setAlpha {k : UnitId} {a : F32} (ha : t.Inv → inAlphaRange a = true) :
    Evolves s (t.setAlpha k a) :=
  h.trans ⟨{}, fun ht => { ht with
    built := fun hc => { ht.built hc with }
    units := fun hr => { ht.units hr with
      alphas := fun j hj => setAlpha_of (fun x => inAlphaRange x = true)
        ((ht.units hr).alphas j hj) (fun _ => ha ht) } }⟩

theorem Evolves.setModulation {k : UnitId} {m : Modulation} (hlink : m.lfo = (t.modulation k).lfo)
    (hdepth : t.Inv → inRange f0 Config.fltMax m.depth = true) : Evolves s (t.setModulation k m) := by
  have link : ∀ j, ((t.setModulation k m).modulation j).lfo = (t.modulation j).lfo := fun j =>
    setModulation_of (fun x => x.lfo = (t.modulation j).lfo) rfl (by rintro rfl; exact hlink)
  exact h.trans ⟨{ link := link }, fun ht => { ht with
    built := fun hc => { ht.built hc with
      linkA := (link _).trans (ht.built hc).linkA
      linkB := (link _).trans (ht.built hc).linkB }
    units := fun hr => { ht.units hr with
      depths := fun j hj => setModulation_of (fun x => inRange f0 Config.fltMax x.depth = true)
        ((ht.units hr).depths j hj) (fun _ => hdepth ht) } }⟩

theorem Evolves.setOsc {k : UnitId} {o : Oscillator} (hperiod : o.N = (t.osc k).N)
    (htable : o.table = (t.osc k).table)
    (hphase : t.Inv → t.ready = true → admits lfoKinds k = true → o.idx < o.N) :
    Evolves s (t.setOsc k o) := by
  have period : ∀ j, ((t.setOsc k o).osc j).N = (t.osc j).N := fun j =>
    setOsc_of (fun x => x.N = (t.osc j).N) rfl (by rintro rfl; exact hperiod)
  have table : ∀ j, ((t.setOsc k o).osc j).table = (t.osc j).table := fun j =>
    setOsc_of (fun x => x.table = (t.osc j).table) rfl (by rintro rfl; exact htable)
  refine h.trans ⟨{ period := period, table := table }, fun ht => { ht with
    built := fun hc => { ht.built hc with }
    units := fun hr => { ht.units hr with
      tables := fun j hj => ?_ } }⟩
  obtain ⟨hpos, hmax, hlen, hidx⟩ := (ht.units hr).tables j hj
  rw [table, period]
  exact ⟨hpos, hmax, hlen, setOsc_of (fun x => x.idx < (t.osc j).N) hidx
    (by rintro rfl; exact hperiod ▸ hphase ht hr hj)⟩

theorem Evolves.setDezip {k : UnitId} {d : Dezipper}
    (hfactor : t.Inv → t.ready = true → admits dzKinds k = true → inAlphaRange d.beta = true) :
    Evolves s (t.setDezip k d) :=
  h.trans ⟨{}, fun ht => { ht with
    built := fun hc => { ht.built hc with }
    units := fun hr => { ht.units hr with
      factors := fun j hj => setDezip_of (fun x => inAlphaRange x.beta = true)
        ((ht.units hr).factors j hj) (by rintro rfl; exact hfactor ht hr hj) } }⟩

/-! ## Buffers -/

/-- The arena's bytes replaced, in canonical form and none outside the arena. -/
theorem Evolves.setMem {m : Memory} (hwf : t.Inv → m.wf = true)
    (hin : t.Inv → ∀ c ∈ m, c.1 < t.arena.cap) : Evolves s (t.setMem m) :=
  h.trans ⟨{}, fun ht => { ht with
    memWf := hwf ht
    memInArena := hin ht
    built := fun hc => { ht.built hc with }
    units := fun hr => { ht.units hr with } }⟩

/-- A cell of a buffer of a ready block lies in the carved part of the arena (R211, R212). -/
theorem Evolves.bufWrite {k : UnitId} {i : Nat} {v : F32} (hr : s.ready = true) (hk : k ∈ delayUnits)
    (hi : t.Inv → i < (t.delay k).L) : Evolves s (t.bufWrite k i v) := by
  refine h.setMem (fun ht => Memory.wf_writeWord _ _ _ ht.memWf) fun ht => ?_
  have hcell := hi ht
  have hregion := (ht.units (h.ready.trans hr)).region k hk
  have hcarved := ht.carved
  refine forall_mem_memWriteWord ht.memInArena fun j hj _ => ?_
  show (t.delay k).base + 4 * i + j < t.arena.cap
  omega

end

end Sys2Proof.Keeping
end

section
/-! The unit steps, the unit-level commands and an engine sample leave the set-up alone and keep the
invariant: each is a chain of updates that do. -/

namespace Sys2Proof.Keeping

open Sys2Proof Sys2Proof.Machine

/-! ## What a well-formed configuration gives (R45) -/

theorem alphaMod_inRange {c : Cfg} (h : c.wf = true) : inAlphaRange c.alphaMod = true := by
  simp only [Cfg.wf, Bool.and_eq_true] at h
  obtain ⟨⟨⟨⟨_, halpha⟩, _⟩, _⟩, _⟩ := h
  exact halpha

theorem dezipBeta_inRange {c : Cfg} (h : c.wf = true) : inAlphaRange c.dezipBeta = true := by
  simp only [Cfg.wf, Bool.and_eq_true] at h
  obtain ⟨⟨⟨_, hbeta⟩, _⟩, _⟩ := h
  exact hbeta

/-- A positive finite value is a legal depth (R131, R630). -/
theorem depth_of_positiveFinite {a : F32} (h : positiveFinite a = true) :
    inRange f0 Config.fltMax a = true := by
  have hmax : fkey Config.fltMax = (infMag : Int) - 1 := rfl
  simp only [positiveFinite, fIsFinite, flt, Bool.and_eq_true, decide_eq_true_eq, Bool.not_eq_true'] at h
  obtain ⟨hfin, ⟨_, hnan⟩, hpos⟩ := h
  simp only [inRange, fle, hnan, hmax, Bool.and_eq_true, decide_eq_true_eq, Bool.not_eq_true']
  refine ⟨⟨⟨rfl, trivial⟩, hpos.le⟩, ⟨trivial, rfl⟩, ?_⟩
  unfold fkey
  split <;> omega

theorem depths_inRange {c : Cfg} (h : c.wf = true) :
    inRange f0 Config.fltMax c.depthA = true ∧ inRange f0 Config.fltMax c.depthB = true := by
  simp only [Cfg.wf, Bool.and_eq_true] at h
  obtain ⟨⟨⟨⟨⟨⟨⟨⟨_, hA⟩, hB⟩, _⟩, _⟩, _⟩, _⟩, _⟩, _⟩ := h
  exact ⟨depth_of_positiveFinite hA, depth_of_positiveFinite hB⟩

theorem maxLenOf_pos {c : Cfg} (h : c.wf = true) {k : UnitId} (hk : k ∈ delayUnits) :
    1 ≤ c.maxLenOf k := by
  simp only [Cfg.wf, Bool.and_eq_true] at h
  obtain ⟨⟨⟨⟨⟨_, hlen⟩, _⟩, _⟩, _⟩, _⟩ := h
  obtain ⟨i, hi⟩ := Option.isSome_iff_exists.mp ((delaySlot_isSome_iff k).mpr hk)
  have hmem : c.maxLen[i] ∈ c.maxLen.toList := by simp
  simpa [Cfg.maxLenOf, bankGet, hi] using List.all_eq_true.mp hlen _ hmem

theorem alphaClamp_inRange (a : F32) : inAlphaRange (alphaClamp a) = true := by
  obtain ⟨hlo, hhi⟩ := fclamp_inRange a f0 Config.alphaMax rfl
  exact Bool.and_eq_true _ _ ▸ ⟨hlo, hhi⟩

theorem writeDepths_inRange {t : State} (hc : t.cfg.wf = true) (sm : Bool) :
    inRange f0 Config.fltMax (if sm then t.cfg.depthA else f0) = true
      ∧ inRange f0 Config.fltMax (if sm then t.cfg.depthB else f0) = true := by
  cases sm
  · simp only [Bool.false_eq_true, if_false]
    decide
  · exact depths_inRange hc

/-! ## Facts about the parts of a step -/

theorem apReadCell_delay (k j : UnitId) (t : State) : (apReadCell k t).2.delay j = t.delay j := by
  unfold Machine.apReadCell
  split <;> rfl

/-- A predelay is at most one less than PD's capacity (R1140). -/
theorem predelayLen_le (t : State) : predelayLen t ≤ t.cfg.maxLenOf .PD - 1 := by
  unfold predelayLen
  split
  · exact Nat.min_le_right _ _
  split
  · exact le_refl _
  · exact Nat.min_le_right _ _

/-- What is cleared before the dezippers are preset: the buffers with their cursors, the phases, the filter
memories. -/
def clearUnits (s : State) : State :=
  opUnits.foldl State.clearPole
    ((((s.clearBuffers delayUnits).forDelays delayUnits (fun _ u => { u with w := 0 })).resetPhase
      .LFO_A).resetPhase .LFO_B)

theorem clearSignal_eq (s : State) (T : Coefs) :
    s.clearSignal T = ((clearUnits s).presetDezips T).clearFeedback := rfl

/-- The units of a branch that own a buffer. -/
structure OwnsBuffers (b : Branch) : Prop where
  map : b.map ∈ delayUnits
  dl1 : b.dl1 ∈ delayUnits
  tap : b.tap ∈ delayUnits
  dl2 : b.dl2 ∈ delayUnits
  xap1 : b.xap1 ∈ delayUnits
  xap2 : b.xap2 ∈ delayUnits

theorem ownsBuffers_branchA : OwnsBuffers branchA := by constructor <;> decide

theorem ownsBuffers_branchB : OwnsBuffers branchB := by constructor <;> decide

/-! ## Unit steps -/

section
variable {s t : State} (h : Evolves s t)
include h

theorem Evolves.dlStep {k : UnitId} {x : F32} (hr : s.ready = true) (hk : k ∈ delayUnits) :
    Evolves s (dlStep k x t).2 :=
  (h.bufWrite hr hk fun ht => (ht.units (h.ready.trans hr)).cursor k hk).setDelay rfl rfl
    fun ht hr' _ =>
      ⟨Nat.mod_lt _ (Nat.zero_lt_of_lt ((ht.units hr').cursor k hk)), (ht.units hr').length k hk⟩

theorem Evolves.lfoStep {k : UnitId} : Evolves s (lfoStep k t).2 :=
  h.setOsc rfl rfl fun ht hr hk =>
    have ⟨hpos, _⟩ := (ht.units hr).tables k hk
    Nat.mod_lt _ hpos

theorem Evolves.apReadCell {k : UnitId} : Evolves s (apReadCell k t).2 := by
  unfold Machine.apReadCell
  split
  · exact h.lfoStep
  · exact h

theorem Evolves.apStep {k : UnitId} {x : F32} (hr : s.ready = true) (hk : k ∈ delayUnits) :
    Evolves s (apStep k x t).2 := by
  have hcell : Evolves s (Machine.apReadCell k t).2 := h.apReadCell
  have hcursor : ∀ u : State, u.delay k = t.delay k → u.Inv → u.ready = true →
      (t.delay k).w < (t.delay k).L := fun u hu hi hr' => hu ▸ (hi.units hr').cursor k hk
  refine Evolves.tick (Evolves.setDelay (hcell.bufWrite hr hk fun ht => ?_) ?_ ?_ fun ht hr' _ => ?_)
  · rw [apReadCell_delay]
    exact hcursor _ (apReadCell_delay k k t) ht (hcell.ready.trans hr)
  · simp [apReadCell_delay, Delay.advance]
  · simp [apReadCell_delay, Delay.advance]
  · have hpos := hcursor _ (by simp [apReadCell_delay]) ht hr'
    have hlen := (ht.units hr').length k hk
    simp only [State.bufWrite_delay, apReadCell_delay] at hlen
    exact ⟨Nat.mod_lt _ (Nat.zero_lt_of_lt hpos), hlen⟩

theorem Evolves.opStep {k : UnitId} {x : F32} : Evolves s (opStep k x t).2 := by
  rw [opStep_state]
  exact h.unseen (by rfl)

theorem Evolves.dzStep {k : UnitId} {x : F32} : Evolves s (dzStep k x t).2 :=
  (h.setDezip (by exact fun ht hr hk => (ht.units hr).factors k hk)).tick

theorem Evolves.satStep {k : UnitId} {x : F32} : Evolves s (satStep k x t).2 := h.tick

/-! ## The setters and the resets -/

theorem Evolves.setLength {k : UnitId} {m : Nat} : Evolves s (t.setLength k m) :=
  h.setDelay rfl rfl fun ht hr hk => by
    have hw := (ht.units hr).cursor k hk
    refine ⟨hw, ?_⟩
    show min m ((t.delay k).L - 1) + 1 ≤ (t.delay k).L
    omega

/-- Bytes made 0 leave only bytes that stood there before. -/
theorem Evolves.memClear {lo len : Nat} : Evolves s (t.setMem (memClear t.arena.mem lo len)) :=
  h.setMem (fun ht => Memory.wf_clear _ _ _ ht.memWf)
    fun ht c hc => ht.memInArena c ((mem_sparseClear _ _ _ _).mp hc).1

theorem Evolves.setCursorZero {k : UnitId} : Evolves s (t.setDelay k { t.delay k with w := 0 }) :=
  h.setDelay rfl rfl fun ht hr hk =>
    ⟨Nat.zero_lt_of_lt ((ht.units hr).cursor k hk), (ht.units hr).length k hk⟩

theorem Evolves.clearDelay {k : UnitId} : Evolves s (t.clearDelay k) := h.memClear.setCursorZero

theorem Evolves.resetPhase {k : UnitId} : Evolves s (t.resetPhase k) :=
  h.setOsc rfl rfl fun ht hr hk =>
    have ⟨hpos, _⟩ := (ht.units hr).tables k hk
    hpos

theorem Evolves.clearPole {k : UnitId} : Evolves s (t.clearPole k) := h.setPole _ _

theorem Evolves.setBeta {k : UnitId} {b : F32} : Evolves s (t.setBeta k b) := h.setPole _ _

theorem Evolves.setAlphaClamp {k : UnitId} {a : F32} : Evolves s (t.setAlpha k (alphaClamp a)) :=
  h.setAlpha fun _ => alphaClamp_inRange a

theorem Evolves.setDepth {k : UnitId} {d : F32} (hd : t.Inv → inRange f0 Config.fltMax d = true) :
    Evolves s (t.setDepth k d) := h.setModulation rfl hd

/-! ## Clearing the signal state (R1310, R1320) -/

theorem Evolves.foldl {α : Type} {f : State → α → State} (l : List α)
    (hf : ∀ u x, Evolves s u → Evolves s (f u x)) : Evolves s (l.foldl f t) :=
  List.foldlRecOn l f h fun u hu x _ => hf u x hu

theorem Evolves.forDelays {ks : List UnitId} {f : UnitId → Delay → Delay}
    (hf : ∀ u k, Evolves s u → Evolves s (u.setDelay k (f k (u.delay k)))) :
    Evolves s (t.forDelays ks f) :=
  h.foldl ks hf

theorem Evolves.clearBuffers {ks : List UnitId} : Evolves s (t.clearBuffers ks) := by
  have hsub : ∀ c ∈ ks.foldl (fun m k => Machine.memClear m (t.delay k).base (4 * (t.delay k).L))
      t.arena.mem, c ∈ t.arena.mem :=
    List.foldlRecOn (motive := fun m => ∀ c ∈ m, c ∈ t.arena.mem) ks _ (fun _ hc => hc)
      fun m hm k _ c hc => hm c ((mem_sparseClear _ _ _ _).mp hc).1
  refine h.setMem (fun ht => ?_) fun ht c hc => ht.memInArena c (hsub c hc)
  exact List.foldlRecOn (motive := fun m => Memory.wf m = true) ks _ ht.memWf
    fun m hm k _ => Memory.wf_clear _ _ _ hm

theorem Evolves.presetDezips {T : Coefs} : Evolves s (t.presetDezips T) :=
  h.foldl _ fun _ _ hu => hu.setDezip fun hi _ _ => dezipBeta_inRange hi.cfgWf

theorem Evolves.clearUnits : Evolves s (clearUnits t) :=
  (h.clearBuffers.forDelays (ks := delayUnits) fun _ _ hu => hu.setCursorZero).resetPhase.resetPhase.foldl
    opUnits fun _ _ hu => hu.clearPole

theorem Evolves.clearSignal {T : Coefs} : Evolves s (t.clearSignal T) :=
  h.clearUnits.presetDezips.setFeedback f0 f0

/-! ## The engine sample (R1201 to R1260) -/

theorem Evolves.writeExtraAlphas {c : F32} : Evolves s (t.writeExtraAlphas c) :=
  h.setAlphaClamp.setAlphaClamp.setAlphaClamp.setAlphaClamp

theorem Evolves.writeAlphas {C : Coefs} : Evolves s (t.writeAlphas C) :=
  have hdiffusers := h.setAlphaClamp.setAlphaClamp.setAlphaClamp.setAlphaClamp
  have hmodulated := (hdiffusers.setAlpha fun ht => alphaMod_inRange ht.cfgWf).setAlpha
    fun ht => alphaMod_inRange ht.cfgWf
  hmodulated.setAlphaClamp.setAlphaClamp

theorem Evolves.writeBetas {C : Coefs} : Evolves s (t.writeBetas C) :=
  h.setBeta.setBeta.setBeta.setBeta.setBeta.setBeta

theorem Evolves.writeDepths {sm : Bool} : Evolves s (t.writeDepths sm) :=
  (h.setDepth fun ht => (writeDepths_inRange ht.cfgWf sm).1).setDepth
    fun ht => (writeDepths_inRange ht.cfgWf sm).2

/-- The write-back with a predelay shorter than PD's capacity. -/
theorem Evolves.writeBack {sm : Bool} {C : Coefs} {n : Nat}
    (hn : t.Inv → t.ready = true → n + 1 ≤ (t.delay .PD).L) : Evolves s (t.writeBack sm C n) := by
  have hpd : Evolves s (t.setDelay .PD { t.delay .PD with n := n }) :=
    h.setDelay rfl rfl fun ht hr hk => ⟨(ht.units hr).cursor _ hk, hn ht hr⟩
  have hunits := (hpd.writeBetas (C := C)).writeAlphas (C := C) |>.writeDepths (sm := sm)
  have hdrives := (hunits.setDrive .SAT_A C.drive).setDrive .SAT_B C.drive
  unfold State.writeBack
  split
  · exact hdrives.writeExtraAlphas
  · exact hdrives

theorem Evolves.smoothTargets {T : Coefs} : Evolves s (smoothTargets T t).2 :=
  h.dzStep.dzStep.dzStep.dzStep.dzStep.dzStep.dzStep.dzStep.dzStep.dzStep

theorem Evolves.coefficients : Evolves s (coefficients t).2 := by
  unfold Machine.coefficients
  split
  · exact h.tick.smoothTargets
  · exact h.tick

section
variable (hr : s.ready = true)
include hr

theorem Evolves.inputPath {x : F32} : Evolves s (inputPath x t).2 :=
  have hdiffuser := ((h.dlStep hr (k := .PD) (x := x) (by decide)).opStep).opStep
  (((hdiffuser.apStep hr (by decide)).apStep hr (by decide)).apStep hr (by decide)).apStep hr (by decide)

theorem Evolves.modeSwitch {b : Branch} (hb : OwnsBuffers b) {sm : Bool} {x : F32} :
    Evolves s (modeSwitch b sm x t).2.2 := by
  unfold Machine.modeSwitch
  split
  · exact (h.apStep hr hb.xap1).apStep hr hb.xap2
  · exact h

theorem Evolves.branchPath {b : Branch} (hb : OwnsBuffers b) {sm : Bool} {c3 u f : F32} :
    Evolves s (branchPath b sm c3 u f t).2 :=
  have hinput := ((h.tick.apStep hr hb.map).dlStep hr hb.dl1).satStep
  have hdelays := ((hinput.opStep.opStep.apStep hr hb.tap).tick).dlStep hr hb.dl2
  (hdelays.modeSwitch hr hb).tick

theorem Evolves.tank {sm : Bool} {c3 u : F32} : Evolves s (tank sm c3 u t).2.2 :=
  ((h.branchPath hr ownsBuffers_branchA).branchPath hr ownsBuffers_branchB).setFeedback _ _

theorem Evolves.engSample {x : F32} : Evolves s (engSample x t).2 := by
  have hcoef : Evolves t (Machine.coefficients t).2 := (Evolves.refl t).coefficients
  have hwritten := (h.trans hcoef).writeBack (sm := t.params.smoothed) (C := (Machine.coefficients t).1)
    (n := predelayLen t) fun hi hr' => ?_
  · exact ((hwritten.inputPath hr).tank hr).tick.tick
  · have hlen := predelayLen_le t
    have hpos := maxLenOf_pos hi.cfgWf (k := .PD) (by decide)
    have hcap := (hi.built (hi.order.2 hr')).capacities .PD (by decide)
    rw [hcoef.setup.cfg] at hpos hcap
    omega

theorem Evolves.processMono {x : F32} : Evolves s (processMono x t) :=
  (h.engSample hr).tick.respond _

theorem Evolves.processStereo {xL xR : F32} : Evolves s (processStereo xL xR t) :=
  (((h.tick.engSample hr).tick.tick).respond _).respond _

end

end

end Sys2Proof.Keeping
end

section
/-! ENGINE_INIT (R1310): where its carves place the buffers, and that the units it sets up meet the unit
invariants. -/

namespace Sys2Proof.Keeping

open Sys2Proof Sys2Proof.Machine

/-! ## The carves -/

/-- One buffer carved: the unit is placed at the carved offset, which moves behind the buffer. -/
def carveOne (s : State) (k : UnitId) : State :=
  ({ s with arena := { s.arena with off := s.arena.off + 4 * s.cfg.maxLenOf k } }).setDelay k
    { s.delay k with base := s.arena.off }

theorem carve_cons (s : State) (k : UnitId) (ks : List UnitId) :
    s.carve (k :: ks) = if s.arena.off + 4 * s.cfg.maxLenOf k > s.arena.cap then (false, s)
      else (carveOne s k).carve ks := rfl

/-- A property that each carve that fits keeps holds after the carves, however many fitted. -/
theorem carve_induction {P : State → Prop}
    (hone : ∀ s k, P s → s.arena.off + 4 * s.cfg.maxLenOf k ≤ s.arena.cap → P (carveOne s k)) :
    ∀ (ks : List UnitId) (s : State), P s → P (s.carve ks).2 := by
  intro ks
  induction ks with
  | nil => intro s hs; exact hs
  | cons k ks ih =>
    intro s hs
    rw [carve_cons]
    split
    · exact hs
    · exact ih _ (hone s k hs (by omega))

theorem carveOne_build (s : State) (k : UnitId) : SameBuild s (carveOne s k) :=
  { size := fun j => setDelay_of (fun x => x.L = (s.delay j).L) rfl (by rintro rfl; rfl) }

theorem carve_build (s : State) (ks : List UnitId) : SameBuild s (s.carve ks).2 :=
  carve_induction (fun t k ht _ => ht.trans (carveOne_build t k)) ks s {}

theorem carve_ready (s : State) (ks : List UnitId) : (s.carve ks).2.ready = s.ready :=
  carve_induction (P := fun t => t.ready = s.ready) (fun _ _ ht _ => ht) ks s rfl

/-- Before READY a carve that fits keeps the invariant. -/
theorem carveOne_inv {s : State} (hs : s.Inv) (hr : s.ready = false) {k : UnitId}
    (hfit : s.arena.off + 4 * s.cfg.maxLenOf k ≤ s.arena.cap) : (carveOne s k).Inv := by
  have hoff := hs.offAligned
  exact { hs with
    carved := hfit
    offAligned := by
      show (s.arena.off + 4 * s.cfg.maxLenOf k) % 4 = 0
      omega
    built := fun hc => { hs.built hc with
      capacities := fun j hj => ((carveOne_build s k).size j).trans ((hs.built hc).capacities j hj) }
    units := fun h => absurd h (ne_true_of_eq_false hr)
    regions := fun h => absurd h (ne_true_of_eq_false hr) }

theorem carve_inv {s : State} (hs : s.Inv) (hr : s.ready = false) (ks : List UnitId) :
    (s.carve ks).2.Inv :=
  (carve_induction (P := fun t => t.Inv ∧ t.ready = false)
    (fun _ _ ht hfit => ⟨carveOne_inv ht.1 ht.2 hfit, ht.2⟩) ks s ⟨hs, hr⟩).1

/-- The places of a list of units: aligned, between two offsets, in the order carved and apart. -/
structure Placed (t : State) (ks : List UnitId) (lo hi : Nat) : Prop where
  aligned : ∀ k ∈ ks, (t.delay k).base % 4 = 0
  lower : ∀ k ∈ ks, lo ≤ (t.delay k).base
  upper : ∀ k ∈ ks, (t.delay k).base + 4 * t.cfg.maxLenOf k ≤ hi
  apart : ∀ j ∈ ks, ∀ k ∈ ks, j ≠ k → (t.delay j).base + 4 * t.cfg.maxLenOf j ≤ (t.delay k).base
    ∨ (t.delay k).base + 4 * t.cfg.maxLenOf k ≤ (t.delay j).base

/-- One more unit placed in front of those behind it. -/
theorem Placed.cons {t : State} {k : UnitId} {ks : List UnitId} {lo hi : Nat}
    (h : Placed t ks (lo + 4 * t.cfg.maxLenOf k) hi) (hlo : lo % 4 = 0) (hbase : (t.delay k).base = lo)
    (hle : lo + 4 * t.cfg.maxLenOf k ≤ hi) : Placed t (k :: ks) lo hi := by
  have hbehind : ∀ j ∈ ks, (t.delay k).base + 4 * t.cfg.maxLenOf k ≤ (t.delay j).base := fun j hj => by
    rw [hbase]; exact h.lower j hj
  refine ⟨?_, ?_, ?_, fun i hmem j hj hij => ?_⟩
  · simpa [hbase, hlo] using h.aligned
  · simpa [hbase] using fun j hj => le_trans (Nat.le_add_right _ _) (h.lower j hj)
  · simpa [hbase, hle] using h.upper
  · rcases List.mem_cons.mp hmem with rfl | hi' <;> rcases List.mem_cons.mp hj with rfl | hj'
    · exact absurd rfl hij
    · exact .inl (hbehind j hj')
    · exact .inr (hbehind i hi')
    · exact h.apart i hi' j hj' hij

/-- Carves that all fit place the units behind the offset they started from, and no other unit. -/
theorem carve_placed : ∀ (ks : List UnitId) (s t : State), ks.Nodup → (∀ k ∈ ks, k ∈ delayUnits) →
    s.arena.off % 4 = 0 → s.carve ks = (true, t) →
    Placed t ks s.arena.off t.arena.off ∧ s.arena.off ≤ t.arena.off
      ∧ ∀ k, k ∉ ks → t.delay k = s.delay k := by
  intro ks
  induction ks with
  | nil =>
    intro s t _ _ _ hcarve
    cases hcarve
    exact ⟨⟨by simp, by simp, by simp, by simp⟩, le_refl _, fun _ _ => rfl⟩
  | cons k ks ih =>
    intro s t hnodup hdelay hoff hcarve
    obtain ⟨hk, hnodup⟩ := List.nodup_cons.mp hnodup
    rw [carve_cons] at hcarve
    split at hcarve
    · cases hcarve
    have hcfg : t.cfg = s.cfg := by
      have h := (carve_build (carveOne s k) ks).cfg
      rwa [hcarve] at h
    have hmid : (carveOne s k).arena.off = s.arena.off + 4 * t.cfg.maxLenOf k := by rw [hcfg]; rfl
    obtain ⟨hplaced, hle, hothers⟩ := ih (carveOne s k) t hnodup
      (fun j hj => hdelay j (List.mem_cons_of_mem _ hj)) (by rw [hmid]; omega) hcarve
    rw [hmid] at hplaced hle
    have hbase : (t.delay k).base = s.arena.off := by
      rw [hothers k hk]
      exact congrArg Delay.base (State.setDelay_delay_same _ k _
        ((delaySlot_isSome_iff k).mpr (hdelay k List.mem_cons_self)))
    refine ⟨hplaced.cons hoff hbase hle, by omega, fun j hj => ?_⟩
    obtain ⟨hjk, hj⟩ := List.ne_and_not_mem_of_not_mem_cons hj
    rw [hothers j hj]
    exact State.setDelay_delay_other _ _ _ _ hjk

/-! ## The units set up

What each part of the set-up leaves alone, and then the fields of the units it leaves. -/

@[simp] theorem writeBetas_kept (s : State) (C : Coefs) (k : UnitId) :
    (s.writeBetas C).delay k = s.delay k ∧ (s.writeBetas C).osc k = s.osc k
      ∧ (s.writeBetas C).dezip k = s.dezip k := by
  simp [State.writeBetas, State.setBeta]

@[simp] theorem writeAlphas_kept (s : State) (C : Coefs) (k : UnitId) :
    (s.writeAlphas C).delay k = s.delay k ∧ (s.writeAlphas C).osc k = s.osc k
      ∧ (s.writeAlphas C).dezip k = s.dezip k := by
  simp [State.writeAlphas]

@[simp] theorem writeDepths_kept (s : State) (sm : Bool) (k : UnitId) :
    (s.writeDepths sm).delay k = s.delay k ∧ (s.writeDepths sm).osc k = s.osc k
      ∧ (s.writeDepths sm).dezip k = s.dezip k ∧ (s.writeDepths sm).alpha k = s.alpha k := by
  simp [State.writeDepths, State.setDepth]

@[simp] theorem writeExtraAlphas_kept (s : State) (c : F32) (k : UnitId) :
    (s.writeExtraAlphas c).delay k = s.delay k ∧ (s.writeExtraAlphas c).osc k = s.osc k
      ∧ (s.writeExtraAlphas c).dezip k = s.dezip k
      ∧ (s.writeExtraAlphas c).modulation k = s.modulation k := by
  simp [State.writeExtraAlphas]

/-- What the write-back writes in both modes (R1210). -/
def writeCommon (s : State) (sm : Bool) (C : Coefs) (n : Nat) : State :=
  (((((s.setDelay .PD { s.delay .PD with n := n }).writeBetas C).writeAlphas C).writeDepths sm).setDrive
    .SAT_A C.drive).setDrive .SAT_B C.drive

theorem writeBack_eq (s : State) (sm : Bool) (C : Coefs) (n : Nat) :
    s.writeBack sm C n =
      if sm then (writeCommon s sm C n).writeExtraAlphas C.alphaT else writeCommon s sm C n := rfl

@[simp] theorem writeBack_kept (s : State) (sm : Bool) (C : Coefs) (n : Nat) (k : UnitId) :
    (s.writeBack sm C n).delay k = (s.setDelay .PD { s.delay .PD with n := n }).delay k
      ∧ (s.writeBack sm C n).osc k = s.osc k ∧ (s.writeBack sm C n).dezip k = s.dezip k := by
  rw [writeBack_eq]
  cases sm <;> simp [writeCommon]

@[simp] theorem presetDezips_kept (s : State) (T : Coefs) (k : UnitId) :
    (s.presetDezips T).delay k = s.delay k ∧ (s.presetDezips T).osc k = s.osc k := by
  simp [State.presetDezips]

@[simp] theorem clearPoles_kept (s : State) (k : UnitId) :
    (opUnits.foldl State.clearPole s).delay k = s.delay k
      ∧ (opUnits.foldl State.clearPole s).osc k = s.osc k := by
  simp [opUnits, State.clearPole]

theorem clearBuffers_delay (s : State) (ks : List UnitId) (k : UnitId) :
    (s.clearBuffers ks).delay k = s.delay k := rfl

theorem clearSignal_delay (s : State) (T : Coefs) {k : UnitId} (hk : k ∈ delayUnits) :
    (s.clearSignal T).delay k = { s.delay k with w := 0 } := by
  simp only [clearSignal_eq, clearUnits, State.clearFeedback_delay, presetDezips_kept, clearPoles_kept,
    State.resetPhase, State.setOsc_delay]
  rw [forDelays_delay _ _ _ _ (by decide) fun j hj => (delaySlot_isSome_iff j).mpr hj, if_pos hk,
    clearBuffers_delay]

theorem forDelays_osc (s : State) (ks : List UnitId) (f : UnitId → Delay → Delay) (k : UnitId) :
    (s.forDelays ks f).osc k = s.osc k := by
  unfold State.osc
  rw [forDelays_state]

theorem clearBuffers_osc (s : State) (ks : List UnitId) (k : UnitId) :
    (s.clearBuffers ks).osc k = s.osc k := rfl

theorem lfo_cases {k : UnitId} (hk : admits lfoKinds k = true) : k = .LFO_A ∨ k = .LFO_B := by
  cases k <;> first | exact .inl rfl | exact .inr rfl | exact absurd hk (by decide)

theorem resetPhases_osc (s : State) {k : UnitId} (hk : admits lfoKinds k = true) :
    ((s.resetPhase .LFO_A).resetPhase .LFO_B).osc k = { s.osc k with idx := 0 } := by
  have hother : ∀ j i, i ≠ j → ∀ t : State, (t.resetPhase j).osc i = t.osc i :=
    fun j i hij t => State.setOsc_osc_other t j i _ hij
  have hsame : ∀ j, (lfoSlot j).isSome = true → ∀ t : State,
      (t.resetPhase j).osc j = { t.osc j with idx := 0 } := fun j hj t => State.setOsc_osc_same t j _ hj
  rcases lfo_cases hk with rfl | rfl
  · rw [hother .LFO_B .LFO_A (by decide), hsame _ rfl]
  · rw [hsame _ rfl, hother .LFO_A .LFO_B (by decide)]

theorem clearSignal_osc (s : State) (T : Coefs) {k : UnitId} (hk : admits lfoKinds k = true) :
    (s.clearSignal T).osc k = { s.osc k with idx := 0 } := by
  simp only [clearSignal_eq, clearUnits, State.clearFeedback_osc, presetDezips_kept, clearPoles_kept,
    resetPhases_osc _ hk, forDelays_osc, clearBuffers_osc]

theorem setLengths_delay (s : State) {k : UnitId} (hk : k ∈ delayUnits) :
    s.setLengths.delay k =
      { s.delay k with n := if k = .PD then predelayLen s else scaledLen s.cfg k } := by
  unfold State.setLengths
  by_cases hpd : k = .PD
  · subst hpd
    rw [State.setDelay_delay_same _ _ _ rfl, if_pos rfl]
  · have hfix : k ∈ fixedDelayUnits := (List.mem_cons.mp hk).resolve_left hpd
    rw [State.setDelay_delay_other _ _ _ _ hpd, forDelays_delay _ _ _ _ (by decide) (by decide),
      if_pos hfix, if_neg hpd]

/-- The units as ENGINE_INIT sets them up, before READY is set. -/
def initUnits (s : State) : State :=
  ((s.setLengths.setTables.clearSignal (targets s)).writeBack s.params.smoothed (targets s)
    (predelayLen s)).writeExtraAlphas (targets s).alphaT

theorem setUp_eq (s : State) : s.setUp = { initUnits s with ready := true, draws := s.draws + 3 } := rfl

/-- ENGINE_INIT gives each buffer its length and a cursor of 0; size and place stay (R1310). -/
theorem initUnits_delay (s : State) {k : UnitId} (hk : k ∈ delayUnits) :
    (initUnits s).delay k =
      { s.delay k with n := if k = .PD then predelayLen s else scaledLen s.cfg k, w := 0 } := by
  have htables : ∀ j, s.setLengths.setTables.delay j = s.setLengths.delay j := fun j => by
    simp only [State.setTables, State.setOsc_delay]
  simp only [initUnits, writeExtraAlphas_kept, writeBack_kept]
  by_cases hpd : k = .PD
  · subst hpd
    rw [State.setDelay_delay_same _ _ _ rfl, clearSignal_delay _ _ hk, htables, setLengths_delay _ hk,
      if_pos rfl]
  · rw [State.setDelay_delay_other _ _ _ _ hpd, clearSignal_delay _ _ hk, htables, setLengths_delay _ hk]

/-- ENGINE_INIT gives each oscillator the table of its rate, at phase 0 (R710, R1310). -/
theorem initUnits_osc (s : State) {k : UnitId} (hk : admits lfoKinds k = true) :
    ((initUnits s).osc k).idx = 0 ∧ ((initUnits s).osc k).table.length = ((initUnits s).osc k).N
      ∧ (((initUnits s).osc k).N = tableLen s.cfg s.cfg.lfoRateA
        ∨ ((initUnits s).osc k).N = tableLen s.cfg s.cfg.lfoRateB) := by
  have hlen : s.setLengths.cfg = s.cfg := by
    rw [State.setLengths, State.setDelay_cfg, forDelays_state]
  simp only [initUnits, writeExtraAlphas_kept, writeBack_kept, clearSignal_osc _ _ hk, State.setTables]
  rcases lfo_cases hk with rfl | rfl
  · rw [State.setOsc_osc_other _ _ _ _ (by decide), State.setOsc_osc_same _ _ _ rfl, hlen]
    simp [sineTable]
  · rw [State.setOsc_osc_same _ _ _ rfl, hlen]
    simp [sineTable]

/-! ## The coefficients written are in their ranges -/

/-- The alphas of these units are in their range. -/
def AlphasOk (s : State) (ks : List UnitId) : Prop := ∀ k ∈ ks, inAlphaRange (s.alpha k) = true

theorem AlphasOk.setAlpha {s : State} {k : UnitId} {a : F32} {ks : List UnitId} (h : AlphasOk s ks)
    (ha : inAlphaRange a = true) (hk : (allpassSlot k).isSome = true) :
    AlphasOk (s.setAlpha k a) (k :: ks) := by
  intro j hj
  rcases List.mem_cons.mp hj with rfl | hj
  · rwa [State.setAlpha_alpha_same _ _ _ hk]
  · exact setAlpha_of (fun x => inAlphaRange x = true) (h j hj) fun _ => ha

theorem alphasOk_writeAlphas (s : State) (hs : s.cfg.wf = true) (C : Coefs) :
    AlphasOk (s.writeAlphas C) [.TAP_B, .TAP_A, .MAP_B, .MAP_A, .AP4, .AP3, .AP2, .AP1] := by
  have hmod := alphaMod_inRange hs
  have hclamp := alphaClamp_inRange
  have hnone : AlphasOk s [] := by simp [AlphasOk]
  exact (((((((hnone.setAlpha (hclamp _) rfl).setAlpha (hclamp _) rfl).setAlpha (hclamp _) rfl).setAlpha
    (hclamp _) rfl).setAlpha hmod rfl).setAlpha hmod rfl).setAlpha (hclamp _) rfl).setAlpha (hclamp _) rfl

theorem AlphasOk.writeExtraAlphas {s : State} {ks : List UnitId} (h : AlphasOk s ks) (c : F32) :
    AlphasOk (s.writeExtraAlphas c) (.XAP2_B :: .XAP1_B :: .XAP2_A :: .XAP1_A :: ks) :=
  have hclamp := alphaClamp_inRange c
  (((h.setAlpha hclamp rfl).setAlpha hclamp rfl).setAlpha hclamp rfl).setAlpha hclamp rfl

theorem AlphasOk.of_same_alpha {s t : State} {ks : List UnitId} (h : AlphasOk s ks)
    (hst : ∀ k, t.alpha k = s.alpha k) : AlphasOk t ks := fun k hk => by rw [hst]; exact h k hk

theorem alphasOk_writeBack (s : State) (hs : s.cfg.wf = true) (sm : Bool) (C : Coefs) (n : Nat) :
    AlphasOk (s.writeBack sm C n) [.TAP_B, .TAP_A, .MAP_B, .MAP_A, .AP4, .AP3, .AP2, .AP1] := by
  have hcfg : ((s.setDelay .PD { s.delay .PD with n := n }).writeBetas C).cfg = s.cfg := by
    simp [State.writeBetas, State.setBeta]
  have hcommon : AlphasOk (writeCommon s sm C n) _ :=
    (alphasOk_writeAlphas _ ((congrArg Cfg.wf hcfg).trans hs) C).of_same_alpha fun k => by
      simp only [writeCommon, State.setDrive_alpha, writeDepths_kept]
  rw [writeBack_eq]
  split
  · exact fun k hk => hcommon.writeExtraAlphas _ k (by simp [hk])
  · exact hcommon

theorem writeDepths_depth (s : State) (hs : s.cfg.wf = true) (sm : Bool) {k : UnitId}
    (hk : admits apmKinds k = true) :
    inRange f0 Config.fltMax ((s.writeDepths sm).modulation k).depth = true := by
  obtain ⟨hA, hB⟩ := writeDepths_inRange hs sm
  have hcases : k = .MAP_B ∨ k = .MAP_A := by
    cases k <;> first | exact .inl rfl | exact .inr rfl | exact absurd hk (by decide)
  unfold State.writeDepths State.setDepth
  rcases hcases with rfl | rfl
  · rwa [State.setModulation_modulation_same _ _ _ rfl]
  · rwa [State.setModulation_modulation_other _ _ _ _ (by decide),
      State.setModulation_modulation_same _ _ _ rfl]

theorem writeBack_depth (s : State) (hs : s.cfg.wf = true) (sm : Bool) (C : Coefs) (n : Nat) {k : UnitId}
    (hk : admits apmKinds k = true) :
    inRange f0 Config.fltMax ((s.writeBack sm C n).modulation k).depth = true := by
  have hcfg : (((s.setDelay .PD { s.delay .PD with n := n }).writeBetas C).writeAlphas C).cfg = s.cfg := by
    simp [State.writeBetas, State.setBeta, State.writeAlphas]
  have hcommon : inRange f0 Config.fltMax ((writeCommon s sm C n).modulation k).depth = true := by
    rw [writeCommon, State.setDrive_modulation, State.setDrive_modulation]
    exact writeDepths_depth _ ((congrArg Cfg.wf hcfg).trans hs) sm hk
  rw [writeBack_eq]
  split
  · simpa only [writeExtraAlphas_kept] using hcommon
  · exact hcommon

/-- After the write-back and the four extra alphas every allpass has a coefficient in its range. -/
theorem writtenAlphas_inRange (s : State) (hs : s.cfg.wf = true) (sm : Bool) (C : Coefs) (n : Nat) (c : F32)
    {k : UnitId} (hk : admits apKinds k = true) :
    inAlphaRange (((s.writeBack sm C n).writeExtraAlphas c).alpha k) = true := by
  refine (alphasOk_writeBack s hs sm C n).writeExtraAlphas c k ?_
  revert hk
  cases k <;> decide

/-- Dezippers preset one after another: those of the list get the configured factor. -/
theorem foldl_presetDezip_factor {k : UnitId} (hk : (dzSlot k).isSome = true) :
    ∀ (l : List (UnitId × F32)) (s : State), s.cfg.wf = true →
      k ∈ l.map Prod.fst ∨ inAlphaRange (s.dezip k).beta = true →
      inAlphaRange ((l.foldl (fun u e => u.setDezip e.1 ⟨u.cfg.dezipBeta, e.2⟩) s).dezip k).beta = true := by
  intro l
  induction l with
  | nil => intro s _ h; simpa using h
  | cons e l ih =>
    intro s hs h
    refine ih (s.setDezip e.1 ⟨s.cfg.dezipBeta, e.2⟩) hs ?_
    rcases h with h | h
    · rcases List.mem_cons.mp h with rfl | h
      · right
        rw [State.setDezip_dezip_same _ _ _ hk]
        exact dezipBeta_inRange hs
      · exact .inl h
    · exact .inr (setDezip_of (fun d => inAlphaRange d.beta = true) h fun _ => dezipBeta_inRange hs)

/-- Every dezipper is preset, with a factor in its range (R1310, R1320). -/
theorem presetDezips_factor (s : State) (hs : s.cfg.wf = true) (T : Coefs) {k : UnitId}
    (hk : admits dzKinds k = true) : inAlphaRange ((s.presetDezips T).dezip k).beta = true := by
  refine foldl_presetDezip_factor (dzSlot_isSome hk) _ s hs (.inl ?_)
  show k ∈ [UnitId.DZ_A1, .DZ_A2, .DZ_AT, .DZ_DEC, .DZ_MIX, .DZ_BILP, .DZ_BIHP, .DZ_BHF, .DZ_BLF, .DZ_DRV]
  revert hk
  cases k <;> decide

theorem clearSignal_factor (s : State) (hs : s.cfg.wf = true) (T : Coefs) {k : UnitId}
    (hk : admits dzKinds k = true) : inAlphaRange ((s.clearSignal T).dezip k).beta = true := by
  rw [clearSignal_eq, State.clearFeedback_dezip]
  exact presetDezips_factor _ ((Evolves.refl s).clearUnits.setup.wf hs) T hk

/-! ## The invariant after ENGINE_INIT -/

/-- Before READY an oscillator may take any table. -/
theorem setOsc_inv {s : State} (hs : s.Inv) (hr : s.ready = false) (k : UnitId) (o : Oscillator) :
    (s.setOsc k o).Inv :=
  { hs with
    built := fun hc => { hs.built hc with }
    units := fun h => absurd h (ne_true_of_eq_false hr)
    regions := fun h => absurd h (ne_true_of_eq_false hr) }

/-- Before READY a unit may take any length. -/
theorem setLengths_evolves {s : State} (hr : s.ready = false) : Evolves s s.setLengths := by
  have hnot : ∀ u : State, Evolves s u → u.ready = true → False := fun _ hu hr' =>
    ne_true_of_eq_false hr (hu.ready.symm.trans hr')
  have hfixed := (Evolves.refl s).forDelays (ks := fixedDelayUnits)
    (f := fun k u => { u with n := scaledLen s.cfg k }) fun u k hu =>
      hu.setDelay rfl rfl fun _ hr' _ => (hnot u hu hr').elim
  have hpd := forDelays_delay (fun k u => { u with n := scaledLen s.cfg k }) fixedDelayUnits s .PD
    (by decide) (by decide)
  rw [if_neg (by decide)] at hpd
  exact hfixed.setDelay (by rw [hpd]) (by rw [hpd]) fun _ hr' _ => (hnot _ hfixed hr').elim

theorem setTables_build (s : State) : SameBuild s s.setTables := {}

theorem setTables_ready (s : State) : s.setTables.ready = s.ready := rfl

theorem setTables_off (s : State) : s.setTables.arena.off = s.arena.off := rfl

theorem setTables_inv {s : State} (hs : s.Inv) (hr : s.ready = false) : s.setTables.Inv :=
  setOsc_inv (setOsc_inv hs hr _ _) hr _ _

/-- After the lengths and the tables the rest of the set-up is signal state and coefficients. -/
theorem initUnits_evolves {s : State} (hr : s.ready = false) :
    Evolves s.setLengths.setTables (initUnits s) := by
  have hready : s.setLengths.setTables.ready = false :=
    (setTables_ready _).trans ((setLengths_evolves hr).ready.trans hr)
  have hclear := (Evolves.refl s.setLengths.setTables).clearSignal (T := targets s)
  have hwritten := hclear.writeBack (sm := s.params.smoothed) (C := targets s) (n := predelayLen s)
    fun _ hr' => absurd (hclear.ready.symm.trans hr') (ne_true_of_eq_false hready)
  exact hwritten.writeExtraAlphas

theorem initUnits_build {s : State} (hr : s.ready = false) : SameBuild s (initUnits s) :=
  ((setLengths_evolves hr).setup.toSameBuild.trans (setTables_build _)).trans
    (initUnits_evolves hr).setup.toSameBuild

theorem initUnits_off {s : State} (hr : s.ready = false) : (initUnits s).arena.off = s.arena.off :=
  (initUnits_evolves hr).setup.off.trans ((setTables_off _).trans (setLengths_evolves hr).setup.off)

theorem initUnits_inv {s : State} (hs : s.Inv) (hr : s.ready = false) : (initUnits s).Inv :=
  (initUnits_evolves hr).keeps
    (setTables_inv ((setLengths_evolves hr).keeps hs) ((setLengths_evolves hr).ready.trans hr))

/-- The checks of steps 1 and 2 and the predelay's bound give every length its room (R1310, R1140). -/
theorem initLength_fits {s : State} (hs : s.cfg.wf = true) (hfit : lengthsFit s.cfg = true) {k : UnitId}
    (hk : k ∈ delayUnits) :
    (if k = .PD then predelayLen s else scaledLen s.cfg k) + 1 ≤ s.cfg.maxLenOf k := by
  split
  case isTrue hpd =>
    have hle := predelayLen_le s
    have hpos := maxLenOf_pos hs hk
    rw [hpd] at hpos ⊢
    omega
  case isFalse hpd =>
    have hfixed : k ∈ fixedDelayUnits := (List.mem_cons.mp hk).resolve_left hpd
    simpa using List.all_eq_true.mp hfit k hfixed

theorem tableLen_fits {c : Cfg} (hfit : tablesFit c = true) {n : Nat}
    (hn : n = tableLen c c.lfoRateA ∨ n = tableLen c c.lfoRateB) : 1 ≤ n ∧ n ≤ c.lfoTableMax := by
  simp only [tablesFit, tableLenOk, Bool.and_eq_true, decide_eq_true_eq] at hfit
  rcases hn with rfl | rfl
  · exact hfit.1
  · exact hfit.2

/-- Buffers placed apart in the carved part, and the unit invariants of R131 with them. -/
theorem initUnits_unitsOk {s : State} (hs : s.Inv) (hc : s.created = true) (hr : s.ready = false)
    (hlen : lengthsFit s.cfg = true) (htab : tablesFit s.cfg = true) {lo : Nat}
    (hplaced : Placed s delayUnits lo s.arena.off) :
    (initUnits s).UnitsOk ∧ (initUnits s).RegionsApart := by
  have hbuild := initUnits_build hr
  have hsize : ∀ k ∈ delayUnits, ((initUnits s).delay k).L = s.cfg.maxLenOf k := fun k hk =>
    (hbuild.size k).trans ((hs.built hc).capacities k hk)
  have hplace : ∀ k ∈ delayUnits, ((initUnits s).delay k).base = (s.delay k).base := fun k hk => by
    rw [initUnits_delay s hk]
  have hwf : s.setLengths.setTables.cfg.wf = true :=
    (congrArg Cfg.wf ((setLengths_evolves hr).setup.toSameBuild.trans (setTables_build _)).cfg).trans hs.cfgWf
  have hwf' := ((Evolves.refl s.setLengths.setTables).clearSignal (T := targets s)).setup.wf hwf
  refine ⟨{
    cursor := fun k hk => ?cursor, length := fun k hk => ?length, aligned := fun k hk => ?aligned
    region := fun k hk => ?region, alphas := fun k hk => writtenAlphas_inRange _ hwf' _ _ _ _ hk
    depths := fun k hk => ?depths, tables := fun k hk => ?tables, factors := fun k hk => ?factors },
    fun j hj k hk hjk => ?apart⟩
  case cursor =>
    rw [hsize k hk, initUnits_delay s hk]
    exact maxLenOf_pos hs.cfgWf hk
  case length =>
    rw [hsize k hk, initUnits_delay s hk]
    exact initLength_fits hs.cfgWf hlen hk
  case aligned =>
    rw [hplace k hk]
    exact hplaced.aligned k hk
  case region =>
    rw [hplace k hk, hsize k hk, initUnits_off hr]
    exact hplaced.upper k hk
  case depths =>
    simp only [initUnits, writeExtraAlphas_kept]
    exact writeBack_depth _ hwf' _ _ _ hk
  case tables =>
    obtain ⟨hphase, htable, hperiod⟩ := initUnits_osc s hk
    obtain ⟨hpos, hmax⟩ := tableLen_fits htab hperiod
    rw [hphase, hbuild.cfg]
    exact ⟨hpos, hmax, htable, hpos⟩
  case factors =>
    simp only [initUnits, writeExtraAlphas_kept, writeBack_kept]
    exact clearSignal_factor _ hwf _ hk
  case apart =>
    rw [hplace j hj, hplace k hk, hsize j hj, hsize k hk]
    exact hplaced.apart j hj k hk hjk

theorem setReady_inv {s : State} (hs : s.Inv) (hc : s.created = true) (hunits : s.UnitsOk)
    (hapart : s.RegionsApart) (draws : Nat) : State.Inv { s with ready := true, draws := draws } :=
  { hs with
    order := ⟨hs.order.1, fun _ => hc⟩
    built := fun h => { hs.built h with }
    units := fun _ => { hunits with }
    regions := fun _ => hapart }

/-- From carves that all fitted, the set-up gives a ready block with the invariant (R1310). -/
theorem setUp_inv {s : State} (hs : s.Inv) (hc : s.created = true) (hr : s.ready = false)
    (hlen : lengthsFit s.cfg = true) (htab : tablesFit s.cfg = true) {lo : Nat}
    (hplaced : Placed s delayUnits lo s.arena.off) : s.setUp.Inv := by
  have hc' : (initUnits s).created = true := (initUnits_build hr).created.trans hc
  obtain ⟨hunits, hapart⟩ := initUnits_unitsOk hs hc hr hlen htab hplaced
  rw [setUp_eq]
  exact setReady_inv (initUnits_inv hs hr) hc' hunits hapart _

theorem setUp_build {s : State} (hr : s.ready = false) : SameBuild s s.setUp := by
  rw [setUp_eq]
  exact { initUnits_build hr with }

end Sys2Proof.Keeping
end

section
/-! The commands that set the block up or write registers, and what each instruction can do, said once. -/

namespace Sys2Proof.Keeping

open Sys2Proof Sys2Proof.Machine

/-! ## Register writes (R121, R1101) -/

theorem paramRange_ordered (p : Param) : fle (paramRange p).1 (paramRange p).2 = true := by
  cases p <;> decide

theorem paramWord_setParamValue_same (ps : Params) {p : Param} (hp : p ≠ .smoothed) (v : Word) :
    paramWord (setParamValue ps p v) p = paramClamp p v := by
  cases p <;> first | rfl | exact absurd rfl hp

theorem paramWord_setParamValue_other (ps : Params) {p q : Param} (hqp : q ≠ p) (v : Word) :
    paramWord (setParamValue ps p v) q = paramWord ps q := by
  cases p <;> cases q <;> first | rfl | exact absurd rfl hqp

theorem setParamValue_inRange {ps : Params} (h : ps.InRange) (p : Param) (v : Word) :
    (setParamValue ps p v).InRange := by
  intro q hq
  by_cases hqp : q = p
  · subst hqp
    rw [paramWord_setParamValue_same ps hq]
    exact Bool.and_eq_true _ _ ▸ fclamp_inRange v _ _ (paramRange_ordered q)
  · rw [paramWord_setParamValue_other ps hqp]
    exact h q hq

theorem writeParam_inv {s : State} (hs : s.Inv) (p : Param) (v : Word) : (s.writeParam p v).Inv :=
  { hs with
    params := setParamValue_inRange hs.params p v
    built := fun hc => { hs.built hc with }
    units := fun hr => { hs.units hr with } }

theorem controlStep_inv {s : State} (hs : s.Inv) (ws : List (Param × Word)) : (s.controlStep ws).Inv := by
  cases ws with
  | nil => exact hs
  | cons w ws => exact ((Evolves.refl _).setAgent _ _).keeps (writeParam_inv hs _ _)

/-- SET_CONTROL's steps write registers and the issuing agent's port. -/
theorem controlStep_state (s : State) (ws : List (Param × Word)) :
    s.controlStep ws =
      { s with params := (s.controlStep ws).params, agents := (s.controlStep ws).agents } := by
  cases ws <;> rfl

/-! ## ENGINE_CREATE (R1305) -/

/-- The capacities set. -/
def sizeUnits (s : State) : State := s.forDelays delayUnits (fun k u => { u with L := s.cfg.maxLenOf k })

/-- Both modulated allpasses linked to their oscillators, and CREATED set. -/
def linkUnits (s : State) : State :=
  let s2 := s.setModulation .MAP_A { s.modulation .MAP_A with lfo := .LFO_A }
  let s3 := s2.setModulation .MAP_B { s2.modulation .MAP_B with lfo := .LFO_B }
  { s3 with created := true }

theorem create_eq (s : State) : s.create = linkUnits (sizeUnits s) := rfl

theorem sizeUnits_state (s : State) : sizeUnits s = { s with delays := (sizeUnits s).delays } :=
  forDelays_state _ _ _

theorem linkUnits_state (s : State) :
    linkUnits s = { s with mods := (linkUnits s).mods, created := true } := rfl

theorem create_state (s : State) :
    s.create = { s with delays := (sizeUnits s).delays, mods := s.create.mods, created := true } := by
  rw [create_eq, linkUnits_state]
  have h := sizeUnits_state s
  generalize (linkUnits (sizeUnits s)).mods = mods
  generalize sizeUnits s = u at h ⊢
  rw [h]

theorem sizeUnits_delay (s : State) {k : UnitId} (hk : k ∈ delayUnits) :
    (sizeUnits s).delay k = { s.delay k with L := s.cfg.maxLenOf k } := by
  rw [sizeUnits, forDelays_delay _ _ _ _ (by decide) fun j hj => (delaySlot_isSome_iff j).mpr hj, if_pos hk]

theorem create_delay (s : State) {k : UnitId} (hk : k ∈ delayUnits) :
    s.create.delay k = { s.delay k with L := s.cfg.maxLenOf k } := by
  have hlink : ∀ u : State, (linkUnits u).delay k = u.delay k := fun _ => rfl
  rw [create_eq, hlink, sizeUnits_delay s hk]

theorem linkUnits_links (s : State) :
    ((linkUnits s).modulation .MAP_A).lfo = .LFO_A ∧ ((linkUnits s).modulation .MAP_B).lfo = .LFO_B := by
  have h : ∀ k, (linkUnits s).modulation k =
      ((s.setModulation .MAP_A { s.modulation .MAP_A with lfo := .LFO_A }).setModulation .MAP_B
        { (s.setModulation .MAP_A { s.modulation .MAP_A with lfo := .LFO_A }).modulation .MAP_B with
          lfo := .LFO_B }).modulation k := fun _ => rfl
  rw [h, h, State.setModulation_modulation_other _ _ _ _ (by decide),
    State.setModulation_modulation_same _ _ _ rfl, State.setModulation_modulation_same _ _ _ rfl]
  exact ⟨rfl, rfl⟩

theorem create_built (s : State) : s.create.Built := by
  have hcfg : s.create.cfg = s.cfg := by rw [create_state]
  obtain ⟨hA, hB⟩ := linkUnits_links (sizeUnits s)
  refine ⟨fun k hk => ?_, hA, hB⟩
  rw [create_delay s hk, hcfg]

theorem create_inv {s : State} (hs : s.Inv) (hr : s.reserved = true) (hc : s.created = false) :
    s.create.Inv := by
  have hready : ¬ s.ready = true := fun h => ne_true_of_eq_false hc (hs.order.2 h)
  have hbuilt := create_built s
  rw [create_state] at hbuilt ⊢
  exact { hs with
    order := ⟨fun _ => hr, fun _ => rfl⟩
    built := fun _ => hbuilt
    units := fun h => absurd h hready
    regions := fun h => absurd h hready }

/-! ## The arena commands (R401, R410) -/

theorem reserve_inv {s : State} (hs : s.Inv) (hr : s.reserved = false) (cap : Word) :
    State.Inv { s with arena := ⟨u32op cap, 0, []⟩, reserved := true } := by
  have hcreated : ¬ s.created = true := fun h => ne_true_of_eq_false hr (hs.order.1 h)
  have hready : ¬ s.ready = true := fun h => hcreated (hs.order.2 h)
  exact { hs with
    memWf := Memory.wf_nil
    memInArena := fun _ hc => absurd hc List.not_mem_nil
    carved := Nat.zero_le _
    offAligned := rfl
    order := ⟨fun _ => rfl, hs.order.2⟩
    built := fun h => absurd h hcreated
    units := fun h => absurd h hready
    regions := fun h => absurd h hready }

theorem carveOff_inv {s : State} (hs : s.Inv) (hr : s.ready = false) (b : Nat)
    (hfit : s.arena.off + carveSize b ≤ s.arena.cap) :
    State.Inv { s with arena := { s.arena with off := s.arena.off + carveSize b } } := by
  have hready := ne_true_of_eq_false hr
  have hoff := hs.offAligned
  exact { hs with
    carved := hfit
    offAligned := by
      show (s.arena.off + 4 * ((b + 3) / 4)) % 4 = 0
      omega
    built := fun h => { hs.built h with }
    units := fun h => absurd h hready
    regions := fun h => absurd h hready }

/-! ## What an instruction can do -/

/-- The effect of an instruction: one that leaves the set-up alone, or the writes its row is there for. -/
inductive Effect : Instr → State → State → Prop
  | evolved {i s t} (h : Evolves s t) : Effect i s t
  | param {s} (p : Param) (v : Word) : Effect (.setParam p v) s (s.writeParam p v)
  | control {s} (a b c d e f g h i j : Word) (ws : List (Param × Word)) :
      Effect (.setControl a b c d e f g h i j) s (s.controlStep ws).tick
  | reserve {s} (cap : Word) (hr : s.reserved = false) :
      Effect (.arenaReserve cap) s { s with arena := ⟨u32op cap, 0, []⟩, reserved := true }
  | carve {s} (b : Word) (hr : s.ready = false) (hfit : s.arena.off + carveSize (u32op b) ≤ s.arena.cap) :
      Effect (.arenaCarve b) s
        (({ s with arena := { s.arena with off := s.arena.off + carveSize (u32op b) } }).respond
          (BitVec.ofNat 32 s.arena.off))
  | create {s} (hr : s.reserved = true) (hc : s.created = false) : Effect .engineCreate s s.create
  | init {s t} (hr : s.ready = false) (hbuild : SameBuild s t) (hkeeps : s.Inv → t.Inv) :
      Effect .engineInit s t

/-- An engine-level command has the effect of its body, or raises LIFECYCLE. -/
theorem engineCommand_effect {i : Instr} {s t : State} {legal : Bool} {body : Result}
    (h : s.engineCommand legal body = .next t) (hbody : legal = true → body = .next t → Effect i s t) :
    Effect i s t := by
  obtain ⟨_, ⟨hl, hb⟩ | ⟨_, rfl⟩⟩ := engineCommand_next.mp h
  · exact hbody hl hb
  · exact .evolved ((Evolves.refl s).raise (by decide))

theorem engineStorage_effect {i : Instr} {s t u : State} {legal ok : Bool}
    (h : s.engineCommand legal (whenStorage ok (.next u)) = .next t) (hu : legal = true → Evolves s u) :
    Effect i s t := by
  refine engineCommand_effect h fun hl hb => ?_
  obtain ⟨_, hb⟩ := whenStorage_next.mp hb
  cases hb
  exact .evolved (hu hl)

/-- A unit-level command evolves the block where its body on a ready block does, or raises. -/
theorem unitBody_effect {i : Instr} {s t : State} {kinds : List Kind} {k : UnitId} {body : Result}
    (h : s.unitCommand kinds k body = .next t)
    (hbody : admits kinds k = true → s.ready = true → body = .next t → Evolves s t) : Effect i s t := by
  obtain ⟨_, ⟨_, rfl⟩ | ⟨hk, ⟨hr, hb⟩ | ⟨_, rfl⟩⟩⟩ := unitCommand_next.mp h
  · exact .evolved ((Evolves.refl s).raise (by decide))
  · exact .evolved (hbody hk hr hb)
  · exact .evolved ((Evolves.refl s).raise (by decide))

theorem unitCommand_effect {i : Instr} {s t u : State} {kinds : List Kind} {k : UnitId}
    (h : s.unitCommand kinds k (.next u) = .next t)
    (hu : admits kinds k = true → s.ready = true → Evolves s u) : Effect i s t :=
  unitBody_effect h fun hk hr hb => by cases hb; exact hu hk hr

theorem unitStorage_effect {i : Instr} {s t u : State} {kinds : List Kind} {k : UnitId} {ok : Bool}
    (h : s.unitCommand kinds k (whenStorage ok (.next u)) = .next t)
    (hu : admits kinds k = true → s.ready = true → Evolves s u) : Effect i s t :=
  unitBody_effect h fun hk hr hb => by
    obtain ⟨_, hb⟩ := whenStorage_next.mp hb
    cases hb
    exact hu hk hr

/-- ENGINE_INIT sets the units up where its checks hold and its carves fit; otherwise it raises, the carves
before the one that did not fit made (R1310). -/
theorem engineInit_effect {s t : State} (h : exec .engineInit s = .next t) : Effect .engineInit s t := by
  have hraise : ∀ {u : State} {c : FaultCode}, c ≠ .none → Evolves u (u.raise c) :=
    fun hc => (Evolves.refl _).raise hc
  refine engineCommand_effect h fun hl hb => ?_
  simp only [Bool.and_eq_true, Bool.not_eq_true'] at hl
  obtain ⟨hc, hr⟩ := hl
  have hbuild := carve_build s delayUnits
  have hready := (carve_ready s delayUnits).trans hr
  have hinv := fun hs : s.Inv => carve_inv hs hr delayUnits
  split at hb
  case isFalse => cases hb; exact .evolved (hraise (by decide))
  case isTrue hlen =>
    split at hb
    case isFalse => cases hb; exact .evolved (hraise (by decide))
    case isTrue htab =>
      split at hb
      case h_1 u hcarve =>
        obtain ⟨_, hb⟩ := whenStorage_next.mp hb
        cases hb
        rw [hcarve] at hbuild hready hinv
        refine .init hr (hbuild.trans (setUp_build hready)) fun hs => ?_
        obtain ⟨hplaced, _⟩ := carve_placed delayUnits s u (by decide) (fun _ h => h) hs.offAligned hcarve
        exact setUp_inv (hinv hs) (hbuild.created.trans hc) hready (hbuild.cfg ▸ hlen) (hbuild.cfg ▸ htab)
          hplaced
      case h_2 u hcarve =>
        cases hb
        rw [hcarve] at hbuild hinv
        exact .init hr (hbuild.trans (hraise (by decide)).setup.toSameBuild)
          fun hs => (hraise (by decide)).keeps (hinv hs)

theorem delay_of_dl {k : UnitId} (h : admits dlKinds k = true) : k ∈ delayUnits :=
  (delaySlot_isSome_iff k).mp (delaySlot_isSome_of_dl h)

theorem delay_of_ap {k : UnitId} (h : admits apKinds k = true) : k ∈ delayUnits :=
  (delaySlot_isSome_iff k).mp (delaySlot_isSome_of_ap h)

/-- Whatever instruction gives a next state, its effect is one of these. -/
theorem exec_effect {i : Instr} {s t : State} (h : exec i s = .next t) : Effect i s t := by
  have hrefl := Evolves.refl s
  cases i with
  | arenaReserve cap =>
    refine engineCommand_effect h fun hl hb => ?_
    cases hb
    exact .reserve cap (by simpa using hl)
  | arenaCarve b =>
    refine engineCommand_effect h fun hl hb => ?_
    simp only [Bool.and_eq_true, Bool.not_eq_true'] at hl
    split at hb <;> cases hb
    · exact .evolved (hrefl.raise (by decide))
    · exact .carve b hl.2 (by omega)
  | engineCreate =>
    refine engineCommand_effect h fun hl hb => ?_
    simp only [Bool.and_eq_true, Bool.not_eq_true'] at hl
    cases hb
    exact .create hl.1 hl.2
  | engineInit => exact engineInit_effect h
  | engineReset => exact engineStorage_effect h fun _ => hrefl.clearSignal.tick
  | readStatus => cases h; exact .evolved (hrefl.respond _)
  | setParam p v => exact engineCommand_effect h fun _ hb => by cases hb; exact .param p v
  | setControl => exact engineCommand_effect h fun _ hb => by cases hb; exact .control ..
  | readParam p => exact engineCommand_effect h fun _ hb => by cases hb; exact .evolved (hrefl.respond _)
  | processMono x => exact engineStorage_effect h fun hr => hrefl.processMono hr
  | processStereo xL xR => exact engineStorage_effect h fun hr => hrefl.processStereo hr
  | dlProcess k x => exact unitStorage_effect h fun hk hr => (hrefl.dlStep hr (delay_of_dl hk)).respond _
  | dlSetDelay k m => exact unitCommand_effect h fun _ _ => hrefl.setLength
  | dlReset k => exact unitStorage_effect h fun _ _ => hrefl.clearDelay
  | apProcess k x => exact unitStorage_effect h fun hk hr => (hrefl.apStep hr (delay_of_ap hk)).respond _
  | apSetCoef k a => exact unitCommand_effect h fun _ _ => hrefl.setAlphaClamp
  | apSetDelay k m => exact unitCommand_effect h fun _ _ => hrefl.setLength
  | apSetDepth k dp =>
    exact unitCommand_effect h fun _ _ =>
      hrefl.setDepth fun _ => Bool.and_eq_true _ _ ▸ fclamp_inRange _ _ _ (by decide)
  | apReset k => exact unitStorage_effect h fun _ _ => hrefl.clearDelay
  | lfoStep k => exact unitStorage_effect h fun _ _ => hrefl.lfoStep.respond _
  | lfoReset k => exact unitCommand_effect h fun _ _ => hrefl.resetPhase
  | opProcess k x => exact unitCommand_effect h fun _ _ => hrefl.opStep.respond _
  | opSetCutoff k wc => exact unitCommand_effect h fun _ _ => (hrefl.setPole _ _).tick
  | opReset k => exact unitCommand_effect h fun _ _ => hrefl.clearPole
  | satProcess k x => exact unitCommand_effect h fun _ _ => hrefl.satStep.respond _
  | satSetDrive k dB => exact unitCommand_effect h fun _ _ => hrefl.setDrive _ _
  | dzSmooth k x => exact unitCommand_effect h fun _ _ => hrefl.dzStep.respond _
  | dzSetFactor k b => exact unitCommand_effect h fun _ _ => hrefl.setDezip fun _ _ _ => alphaClamp_inRange b
  | dzPreset k v =>
    exact unitCommand_effect h fun _ _ => hrefl.setDezip fun ht hr hk => (ht.units hr).factors k hk

end Sys2Proof.Keeping
end

section
/-! Who writes what, what every step keeps, and the state after reset. -/

namespace Sys2Proof.Keeping

open Sys2Proof Sys2Proof.Machine

/-! ## The invariant over a step -/

/-- Every effect keeps the invariant. -/
theorem effect_inv {i : Instr} {s t : State} (h : Effect i s t) (hs : s.Inv) : t.Inv := by
  cases h with
  | evolved h => exact h.keeps hs
  | param p v => exact writeParam_inv hs p v
  | control _ _ _ _ _ _ _ _ _ _ ws => exact (Evolves.refl _).tick.keeps (controlStep_inv hs ws)
  | reserve cap hr => exact reserve_inv hs hr cap
  | carve b hr hfit => exact ((Evolves.refl _).respond _).keeps (carveOff_inv hs hr _ hfit)
  | create hr hc => exact create_inv hs hr hc
  | init _ _ hkeeps => exact hkeeps hs

theorem take_evolves (s : State) (a : Nat) (rest : List Word) : Evolves s (s.take a rest) :=
  (((Evolves.refl s).unseen (u := { s with cur := a }) rfl).setAgent _ _).tick

/-- Settles O12: a step does one job of one agent (R300), and each job keeps the invariant. -/
theorem stepKeepsInvariant : Obligations.StepKeepsInvariant := by
  intro s t hs h
  obtain ⟨a, _, j, _, _, hjob⟩ := step_next h
  cases j with
  | command i rest => exact effect_inv (exec_effect hjob) ((take_evolves s a rest).keeps hs)
  | illegal rest =>
    subst hjob
    exact ((take_evolves s a rest).raise (by decide)).keeps hs
  | resume =>
    subst hjob
    have hcur := ((Evolves.refl s).unseen (u := { s with cur := a }) rfl).keeps hs
    exact (Evolves.refl _).tick.keeps (controlStep_inv hcur _)

/-! ## Who writes what -/

/-- Settles O18: each effect leaves alone what the row of its instruction does not name. -/
theorem whoWritesWhat : Obligations.WhoWritesWhat := by
  intro i s t h
  cases exec_effect h with
  | evolved h =>
    have hset := h.setup
    exact ⟨hset.cfg, fun _ _ => hset.params, fun _ => ⟨fun k _ => hset.size k, fun k _ => hset.link k⟩,
      fun _ => hset.cap, fun _ _ _ => hset.off, fun _ k _ => hset.place k,
      fun _ k _ => ⟨hset.period k, hset.table k⟩,
      fun _ _ => ⟨hset.cap, hset.off, fun k _ => ⟨hset.size k, hset.place k⟩⟩⟩
  | param p v =>
    exact ⟨rfl, fun h => absurd rfl (h p v), fun _ => ⟨fun _ _ => rfl, fun _ _ => rfl⟩, fun _ => rfl,
      fun _ _ _ => rfl, fun _ _ _ => rfl, fun _ _ _ => ⟨rfl, rfl⟩,
      fun _ _ => ⟨rfl, rfl, fun _ _ => ⟨rfl, rfl⟩⟩⟩
  | control a b c d e f g h' i j ws =>
    rw [controlStep_state]
    exact ⟨rfl, fun _ hne => absurd rfl (hne a b c d e f g h' i j), fun _ => ⟨fun _ _ => rfl, fun _ _ => rfl⟩,
      fun _ => rfl, fun _ _ _ => rfl, fun _ _ _ => rfl, fun _ _ _ => ⟨rfl, rfl⟩,
      fun _ _ => ⟨rfl, rfl, fun _ _ => ⟨rfl, rfl⟩⟩⟩
  | reserve cap hr =>
    exact ⟨rfl, fun _ _ => rfl, fun _ => ⟨fun _ _ => rfl, fun _ _ => rfl⟩, fun h => absurd rfl (h cap),
      fun h => absurd rfl (h cap), fun _ _ _ => rfl, fun _ _ _ => ⟨rfl, rfl⟩,
      fun hs hready => absurd (hs.order.1 (hs.order.2 hready)) (ne_true_of_eq_false hr)⟩
  | carve b hr =>
    exact ⟨rfl, fun _ _ => rfl, fun _ => ⟨fun _ _ => rfl, fun _ _ => rfl⟩, fun _ => rfl,
      fun _ h => absurd (h b rfl) (ne_true_of_eq_false hr), fun _ _ _ => rfl,
      fun _ _ _ => ⟨rfl, rfl⟩, fun _ hready => absurd hready (ne_true_of_eq_false hr)⟩
  | create hr hc =>
    have hplace : ∀ k ∈ delayUnits, (s.create.delay k).base = (s.delay k).base := fun k hk => by
      rw [create_delay s hk]
    have hrest := create_state s
    rw [hrest] at hplace ⊢
    exact ⟨rfl, fun _ _ => rfl, fun h => absurd rfl h, fun _ => rfl, fun _ _ _ => rfl, fun _ => hplace,
      fun _ _ _ => ⟨rfl, rfl⟩,
      fun hs hready => absurd (hs.order.2 hready) (ne_true_of_eq_false hc)⟩
  | init hr hbuild =>
    exact ⟨hbuild.cfg, fun _ _ => hbuild.params, fun _ => ⟨fun k _ => hbuild.size k, fun k _ => hbuild.link k⟩,
      fun _ => hbuild.cap, fun _ _ h => absurd rfl h, fun h => absurd rfl h, fun h => absurd rfl h,
      fun _ hready => absurd hready (ne_true_of_eq_false hr)⟩

/-! ## Reset and the events outside the step -/

theorem config_wf : Config.cfg.wf = true := by
  unfold Config.cfg
  split
  · assumption
  · decide +kernel

theorem powerOnParams_inRange : Params.powerOn.InRange := by
  intro p _
  cases p <;> decide

/-- Power-on reset of a well-formed block has the invariant (R1701). -/
theorem powerOn_inv {c : Cfg} (hc : c.wf = true) (draws : Nat) : (State.powerOn c draws).Inv where
  cfgWf := hc
  memWf := Memory.wf_nil
  memInArena _ h := absurd h List.not_mem_nil
  agentsWf := sparseWf_nil _
  carved := le_refl _
  offAligned := rfl
  order := ⟨Bool.false_ne_true.elim, Bool.false_ne_true.elim⟩
  faultCode := ⟨fun _ => rfl, fun _ => rfl⟩
  params := powerOnParams_inRange
  built := Bool.false_ne_true.elim
  units := Bool.false_ne_true.elim
  regions := Bool.false_ne_true.elim

/-- Settles O11: an agent's own actions write its port alone, and power-on reset keeps the configuration. -/
theorem resetHasInvariant : Obligations.ResetHasInvariant := by
  refine ⟨powerOn_inv config_wf 0, fun s hs => ⟨fun a ws => ?_, fun a => ?_, powerOn_inv hs.cfgWf s.draws⟩⟩
  · exact ((Evolves.refl s).setAgent a _).keeps hs
  · exact ((Evolves.refl s).setAgent a _).keeps hs

/-! ## The status word -/

theorem toNat_append_eq_add {m n : Nat} (x : BitVec m) (y : BitVec n) :
    (x ++ y).toNat = x.toNat * 2 ^ n + y.toNat := by
  rw [BitVec.toNat_append, ← Nat.shiftLeft_add_eq_or_of_lt y.isLt, Nat.shiftLeft_eq]

/-- The bits of R110 as a sum. -/
theorem statusWord_toNat (s : State) :
    s.statusWord.toNat = s.reserved.toNat + 2 * s.created.toNat + 4 * s.ready.toNat + 8 * s.faulted.toNat
      + 256 * (if s.faulted then s.faultCode.code.toNat else 0) := by
  unfold State.statusWord
  simp only [toNat_append_eq_add, BitVec.toNat_ofBool]
  cases s.faulted <;> simp <;> omega

/-- Settles O10: each field of the power-on state, read off, and the sum of its cleared status bits. -/
theorem powerOnResetValues : Obligations.PowerOnResetValues := by
  intro s
  have hstatus : s.powerOnReset.statusWord = 0#32 :=
    BitVec.eq_of_toNat_eq (by rw [statusWord_toNat]; rfl)
  exact ⟨hstatus, rfl, rfl, rfl, rfl, rfl, rfl, rfl, fun _ => ⟨rfl, rfl, rfl⟩, rfl, rfl⟩

/-- Settles O26: the response is the status word, whose bits are those of R110. -/
theorem readStatusReportsTheFlags : Obligations.ReadStatusReportsTheFlags := by
  intro s
  refine ⟨s.respond s.statusWord, rfl, ⟨State.respond_agent_cur s _, State.respond_agent_other s _⟩, rfl, ?_⟩
  rw [statusWord_toNat]
  cases s.faultCode <;> rfl

end Sys2Proof.Keeping
end

section
/-! The storage a command reaches exists wherever the invariant holds (20_memory.md R200, R212), and the
arena commands (40_arena.md). -/

namespace Sys2Proof.Storage

open Sys2Proof Sys2Proof.Machine Sys2Proof.Keeping

/-! ## Storage under the invariant -/

/-- A buffer in the carved part of the arena lies in the arena. -/
theorem regionOk_of_carved {s : State} {k : UnitId}
    (hregion : (s.delay k).base + 4 * (s.delay k).L ≤ s.arena.off)
    (hcarved : s.arena.off ≤ s.arena.cap) : s.regionOk k = true :=
  decide_eq_true (hregion.trans hcarved)

section
variable {s : State} (hs : s.Inv) (hr : s.ready = true)
include hs hr

theorem regionOk_of_ready {k : UnitId} (hk : k ∈ delayUnits) : s.regionOk k = true :=
  regionOk_of_carved ((hs.units hr).region k hk) hs.carved

theorem regionsOk_of_ready : delayUnits.all s.regionOk = true :=
  List.all_eq_true.mpr fun _ hk => regionOk_of_ready hs hr hk

theorem delayOk_of_ready {k : UnitId} (hk : k ∈ delayUnits) : s.delayOk k = true :=
  Bool.and_eq_true_iff.mpr ⟨regionOk_of_ready hs hr hk, decide_eq_true ((hs.units hr).cursor k hk)⟩

theorem oscOk_of_ready {k : UnitId} (hk : admits lfoKinds k = true) : s.oscOk k = true := by
  obtain ⟨_, _, htable, hphase⟩ := (hs.units hr).tables k hk
  exact Bool.and_eq_true_iff.mpr ⟨decide_eq_true hphase, decide_eq_true htable⟩

/-- ENGINE_CREATE linked each modulated allpass to an oscillator (R1305). -/
theorem link_admitted {k : UnitId} (hk : unitKind k = .APM) :
    admits lfoKinds (s.modulation k).lfo = true := by
  have hbuilt := hs.built (hs.order.2 hr)
  have hcases : k = .MAP_A ∨ k = .MAP_B := by
    revert hk
    cases k <;> decide
  rcases hcases with rfl | rfl
  · rw [hbuilt.linkA]; rfl
  · rw [hbuilt.linkB]; rfl

theorem apOk_of_ready {k : UnitId} (hk : k ∈ delayUnits) : s.apOk k = true := by
  refine Bool.and_eq_true_iff.mpr ⟨delayOk_of_ready hs hr hk, Bool.or_eq_true_iff.mpr ?_⟩
  by_cases hkind : unitKind k = .APM
  · exact .inr (oscOk_of_ready hs hr (link_admitted hs hr hkind))
  · exact .inl (decide_eq_true hkind)

theorem engineOk_of_ready : s.engineOk = true := by
  have hdelays : delayUnits.all s.delayOk = true :=
    List.all_eq_true.mpr fun _ hk => delayOk_of_ready hs hr hk
  have hA := apOk_of_ready hs hr (k := .MAP_A) (by decide)
  have hB := apOk_of_ready hs hr (k := .MAP_B) (by decide)
  rw [State.engineOk, hdelays, hA, hB]
  rfl

end

/-- Where every carve of ENGINE_INIT fits, every buffer it places lies in the arena (R1310). -/
theorem regionsOk_of_carve {s t : State} (hs : s.Inv) (hc : s.created = true) (hr : s.ready = false)
    (hcarve : s.carve delayUnits = (true, t)) : delayUnits.all t.regionOk = true := by
  obtain ⟨hplaced, _⟩ := carve_placed delayUnits s t (by decide) (fun _ h => h) hs.offAligned hcarve
  have hinv := carve_inv hs hr delayUnits
  have hbuild := carve_build s delayUnits
  rw [hcarve] at hinv hbuild
  refine List.all_eq_true.mpr fun k hk => regionOk_of_carved ?_ hinv.carved
  rw [(hinv.built (hbuild.created.trans hc)).capacities k hk]
  exact hplaced.upper k hk

/-! ## Safe outcomes -/

theorem safe_next (t : State) : SafeOutcome (.next t) := trivial

theorem safe_stuck : SafeOutcome (.fault .stuck) := trivial

theorem safe_whenStorage {ok : Bool} {t : State} (hok : ok = true) :
    SafeOutcome (whenStorage ok (.next t)) := by
  rw [whenStorage, if_pos hok]
  exact safe_next t

/-- An engine-level command is safe where its body is when it may run. -/
theorem safe_engineCommand {s : State} {legal : Bool} {body : Result}
    (hbody : legal = true → SafeOutcome body) : SafeOutcome (s.engineCommand legal body) := by
  unfold State.engineCommand
  split
  · exact safe_stuck
  · split
    case isTrue hl => exact hbody hl
    case isFalse => exact safe_next _

/-- A unit-level command is safe where its body is on a unit of its kinds in a ready block. -/
theorem safe_unitCommand {s : State} {kinds : List Kind} {k : UnitId} {body : Result}
    (hbody : admits kinds k = true → s.ready = true → SafeOutcome body) :
    SafeOutcome (s.unitCommand kinds k body) := by
  unfold State.unitCommand
  split
  · exact safe_stuck
  · split
    case isTrue hk => exact safe_engineCommand (hbody hk)
    case isFalse => exact safe_next _

theorem safe_noStep (s : State) : SafeOutcome (.fault s.noStep) := by
  unfold State.noStep
  split <;> trivial

theorem engineInit_safe {s : State} (hs : s.Inv) : SafeOutcome (exec .engineInit s) := by
  refine safe_engineCommand fun hl => ?_
  simp only [Bool.and_eq_true, Bool.not_eq_true'] at hl
  obtain ⟨hc, hr⟩ := hl
  split
  case isFalse => exact safe_next _
  split
  case isFalse => exact safe_next _
  split
  case h_1 t hcarve => exact safe_whenStorage (regionsOk_of_carve hs hc hr hcarve)
  case h_2 => exact safe_next _

/-- From the invariant every instruction finds the storage it reaches: what a row checks is what the
invariant says of a ready block, and of ENGINE_INIT's carves. -/
theorem exec_safe {s : State} (hs : s.Inv) (i : Instr) : SafeOutcome (exec i s) := by
  cases i with
  | arenaReserve cap => exact safe_engineCommand fun _ => safe_next _
  | arenaCarve b =>
    refine safe_engineCommand fun _ => ?_
    split <;> exact safe_next _
  | engineCreate => exact safe_engineCommand fun _ => safe_next _
  | engineInit => exact engineInit_safe hs
  | engineReset => exact safe_engineCommand fun hr => safe_whenStorage (regionsOk_of_ready hs hr)
  | readStatus => exact safe_next _
  | setParam p v => exact safe_engineCommand fun _ => safe_next _
  | setControl => exact safe_engineCommand fun _ => safe_next _
  | readParam p => exact safe_engineCommand fun _ => safe_next _
  | processMono x => exact safe_engineCommand fun hr => safe_whenStorage (engineOk_of_ready hs hr)
  | processStereo xL xR => exact safe_engineCommand fun hr => safe_whenStorage (engineOk_of_ready hs hr)
  | dlProcess k x =>
    exact safe_unitCommand fun hk hr => safe_whenStorage (delayOk_of_ready hs hr (delay_of_dl hk))
  | dlSetDelay k m => exact safe_unitCommand fun _ _ => safe_next _
  | dlReset k =>
    exact safe_unitCommand fun hk hr => safe_whenStorage (regionOk_of_ready hs hr (delay_of_dl hk))
  | apProcess k x =>
    exact safe_unitCommand fun hk hr => safe_whenStorage (apOk_of_ready hs hr (delay_of_ap hk))
  | apSetCoef k a => exact safe_unitCommand fun _ _ => safe_next _
  | apSetDelay k m => exact safe_unitCommand fun _ _ => safe_next _
  | apSetDepth k dp => exact safe_unitCommand fun _ _ => safe_next _
  | apReset k =>
    exact safe_unitCommand fun hk hr => safe_whenStorage (regionOk_of_ready hs hr (delay_of_ap hk))
  | lfoStep k => exact safe_unitCommand fun hk hr => safe_whenStorage (oscOk_of_ready hs hr hk)
  | lfoReset k => exact safe_unitCommand fun _ _ => safe_next _
  | opProcess k x => exact safe_unitCommand fun _ _ => safe_next _
  | opSetCutoff k wc => exact safe_unitCommand fun _ _ => safe_next _
  | opReset k => exact safe_unitCommand fun _ _ => safe_next _
  | satProcess k x => exact safe_unitCommand fun _ _ => safe_next _
  | satSetDrive k dB => exact safe_unitCommand fun _ _ => safe_next _
  | dzSmooth k x => exact safe_unitCommand fun _ _ => safe_next _
  | dzSetFactor k b => exact safe_unitCommand fun _ _ => safe_next _
  | dzPreset k v => exact safe_unitCommand fun _ _ => safe_next _

/-- Settles O13: taking a command's words keeps the invariant, from which every meaning is safe; a step's
other jobs give a next state, and a block with no job is idle or stuck. -/
theorem invariantStepsAreSafe : Obligations.InvariantStepsAreSafe := by
  intro s hs
  unfold step
  split
  case h_1 a i rest _ => exact exec_safe ((take_evolves s a rest).keeps hs) i
  case h_2 => exact safe_next _
  case h_3 => exact safe_next _
  case h_4 => exact safe_noStep s

/-! ## The arena commands -/

theorem memReadByte_nil (a : Nat) : memReadByte [] a = 0#8 := rfl

/-- A word of an arena with no byte listed reads 0 (R201). -/
theorem memReadWord_nil (a : Nat) : memReadWord [] a = 0#32 := by
  simp only [memReadWord, memReadByte_nil]
  decide

/-- Settles O20: a fresh arena lists no byte, and an unlisted byte reads 0. -/
theorem arenaReserveZeroesTheArena : Obligations.ArenaReserveZeroesTheArena := by
  intro cap s hf hr
  have hlegal : (!s.reserved) = true := by rw [hr]; rfl
  exact ⟨{ s with arena := ⟨u32op cap, 0, []⟩, reserved := true }, engineCommand_runs hf hlegal,
    rfl, rfl, memReadByte_nil, memReadWord_nil, rfl⟩

/-- The carved size is the least whole number of words that holds the bytes asked for (R410). -/
theorem carveSize_bounds (b : Nat) : 4 ∣ carveSize b ∧ b ≤ carveSize b ∧ carveSize b < b + 4 := by
  unfold carveSize
  refine ⟨Nat.dvd_mul_right _ _, ?_, ?_⟩ <;> omega

/-- The offset moved on by the rounded size of `b` bytes. -/
def carved (s : State) (b : Nat) : State :=
  { s with arena := { s.arena with off := s.arena.off + carveSize b } }

/-- Where the lifecycle allows a carve, its one test is whether the rounded size fits (R410). -/
theorem exec_arenaCarve {s : State} (hf : s.faulted = false) (hreserved : s.reserved = true)
    (hready : s.ready = false) (b : Word) :
    exec (.arenaCarve b) s = if s.arena.off + carveSize b.toNat > s.arena.cap then
        .next (s.raise .arenaOverflow)
      else .next ((carved s b.toNat).respond (BitVec.ofNat 32 s.arena.off)) := by
  have hlegal : (s.reserved && !s.ready) = true := by rw [hreserved, hready]; rfl
  exact engineCommand_runs hf hlegal

/-- Settles O21, the size being `carveSize`: each clause is one side of the test. -/
theorem arenaCarveBumpsTheOffset : Obligations.ArenaCarveBumpsTheOffset := by
  intro b s hf hreserved hready
  obtain ⟨hwords, hholds, hleast⟩ := carveSize_bounds b.toNat
  rw [exec_arenaCarve hf hreserved hready]
  refine ⟨carveSize b.toNat, hwords, hholds, hleast, fun hfits => ?_, fun hpast => if_pos hpast⟩
  rw [if_neg (Nat.not_lt.mpr hfits)]
  exact ⟨_, rfl, ⟨State.respond_agent_cur (carved s b.toNat) _,
    State.respond_agent_other (carved s b.toNat) _⟩, rfl⟩

end Sys2Proof.Storage
end

section
/-! The fields of a command word (30_encoding.md R301), what a row's checks and operands answer (R302, R340),
and from that the decoder against the encoder and against the clauses of R340. -/

namespace Sys2Proof.Encoding

open Sys2Proof Sys2Proof.Machine

/-! ## The fields of a command word (R301) -/

theorem opcField_toNat (w : Word) : (opcField w).toNat = w.toNat / 2 ^ 24 := by
  have := w.isLt
  simp only [opcField, BitVec.extractLsb'_toNat, Nat.shiftRight_eq_div_pow]
  omega

theorem unitField_toNat (w : Word) : (unitField w).toNat = w.toNat / 2 ^ 16 % 2 ^ 8 := by
  simp only [unitField, BitVec.extractLsb'_toNat, Nat.shiftRight_eq_div_pow]

theorem immField_toNat (w : Word) : (immField w).toNat = w.toNat % 2 ^ 16 := by
  simp only [immField, BitVec.extractLsb'_toNat, Nat.shiftRight_eq_div_pow, pow_zero, Nat.div_one]

theorem commandWord_toNat (opc unit : BitVec 8) (imm : BitVec 16) :
    (commandWord opc unit imm).toNat = (opc.toNat * 2 ^ 8 + unit.toNat) * 2 ^ 16 + imm.toNat := by
  simp only [commandWord, Keeping.toNat_append_eq_add]

@[simp] theorem opcField_commandWord (opc unit : BitVec 8) (imm : BitVec 16) :
    opcField (commandWord opc unit imm) = opc := by
  have hunit := unit.isLt
  have himm := imm.isLt
  refine BitVec.eq_of_toNat_eq ?_
  rw [opcField_toNat, commandWord_toNat]
  omega

@[simp] theorem unitField_commandWord (opc unit : BitVec 8) (imm : BitVec 16) :
    unitField (commandWord opc unit imm) = unit := by
  have hunit := unit.isLt
  have himm := imm.isLt
  refine BitVec.eq_of_toNat_eq ?_
  rw [unitField_toNat, commandWord_toNat]
  omega

@[simp] theorem immField_commandWord (opc unit : BitVec 8) (imm : BitVec 16) :
    immField (commandWord opc unit imm) = imm := by
  have himm := imm.isLt
  refine BitVec.eq_of_toNat_eq ?_
  rw [immField_toNat, commandWord_toNat]
  omega

/-- A word is its three fields. -/
theorem commandWord_fields (w : Word) : commandWord (opcField w) (unitField w) (immField w) = w := by
  refine BitVec.eq_of_toNat_eq ?_
  rw [commandWord_toNat, opcField_toNat, unitField_toNat, immField_toNat]
  omega

@[simp] theorem opcField_unitWord (opc : BitVec 8) (k : UnitId) : opcField (unitWord opc k) = opc :=
  opcField_commandWord _ _ _

/-! ## The rows on the words they are encoded by (R310) -/

theorem engineRow_commandWord (opc : BitVec 8) (next : Decoded) :
    engineRow (commandWord opc 0 0) next = next := by
  simp [engineRow]

theorem paramRow_commandWord (opc : BitVec 8) (p : Param) (next : Param → Decoded) :
    paramRow (commandWord opc 0 (paramIndex p)) next = next p := by
  simp [paramRow, paramOfIndex_paramIndex]

theorem unitRow_unitWord (opc : BitVec 8) {kinds : List Kind} {k : UnitId} (hk : admits kinds k = true)
    (next : UnitId → Decoded) : unitRow (unitWord opc k) kinds next = next k := by
  simp [unitRow, unitWord, unitOfNumber_unitNumber, hk]


/-- Settles O1: each opcode selects its row, whose checks the instruction's own unit number or parameter index
passes. -/
theorem decodeOfEncode : Obligations.DecodeOfEncode := by
  intro i rest hwf
  cases i
  all_goals simp only [encode, List.cons_append, List.nil_append, decode, decodeRow, opcField_commandWord,
    opcField_unitWord, BitVec.reduceToNat]
  case arenaReserve | arenaCarve | engineCreate | engineInit | engineReset | readStatus | setControl
      | processMono | processStereo => exact engineRow_commandWord _ _
  case setParam | readParam => exact paramRow_commandWord _ _ _
  all_goals exact unitRow_unitWord _ hwf _

/-! ## What the rows take (R302, R311, R345) -/

/-- What is made of the words after a command word `w` whose fields are legal: with `w` they are a whole
command's, or they wait for operands. -/
inductive Reads (w : Word) (rest : List Word) : Decoded → Prop
  | whole {i : Instr} {left : List Word} (hwf : wellFormed i = true) (hwords : w :: rest = encode i ++ left) :
      Reads w rest (.ok i left)
  | waits : Reads w rest (.reject .incomplete)

theorem operands0_reads {w : Word} {i : Instr} (hwf : wellFormed i = true) (henc : encode i = [w])
    (rest : List Word) : Reads w rest (operands0 i rest) :=
  .whole hwf (by rw [henc]; rfl)

theorem operands1_reads {w : Word} {f : Word → Instr} (hwf : ∀ a, wellFormed (f a) = true)
    (henc : ∀ a, encode (f a) = [w, a]) : ∀ rest, Reads w rest (operands1 f rest)
  | [] => .waits
  | a :: _ => .whole (hwf a) (by rw [henc]; rfl)

theorem operands2_reads {w : Word} {f : Word → Word → Instr} (hwf : ∀ a b, wellFormed (f a b) = true)
    (henc : ∀ a b, encode (f a b) = [w, a, b]) : ∀ rest, Reads w rest (operands2 f rest)
  | [] | [_] => .waits
  | a :: b :: _ => .whole (hwf a b) (by rw [henc]; rfl)

theorem operands10_reads (rest : List Word) : Reads (commandWord 0x11 0 0) rest (operands10 rest) := by
  unfold operands10
  split
  · exact .whole rfl rfl
  · exact .waits

/-- The numbers of the units of some kinds, in number order (R320). -/
def numbersOf (kinds : List Kind) : List Nat :=
  (allUnits.filter (admits kinds)).map (fun k => (unitNumber k).toNat)

theorem mem_allUnits (k : UnitId) : k ∈ allUnits := by cases k <;> decide

theorem unitNumber_inj {j k : UnitId} (h : unitNumber j = unitNumber k) : j = k :=
  Option.some.inj (by rw [← unitOfNumber_unitNumber j, h, unitOfNumber_unitNumber])

/-- A UNIT field is one of these numbers exactly where it names a unit of those kinds. -/
theorem mem_numbersOf {kinds : List Kind} {n : BitVec 8} :
    n.toNat ∈ numbersOf kinds ↔ ∃ k, unitNumber k = n ∧ admits kinds k = true := by
  simp only [numbersOf, List.mem_map, List.mem_filter, BitVec.toNat_inj]
  exact exists_congr fun k => ⟨fun ⟨⟨_, hk⟩, hn⟩ => ⟨hn, hk⟩, fun ⟨hn, hk⟩ => ⟨⟨mem_allUnits k, hk⟩, hn⟩⟩

/-- What the decoder answers for a command word `w` with opcode `opc`: the answer of a row with its checks
on UNIT and IMM16, each legal word of which reads its operands, or that there is no row (R310). -/
inductive RowAnswer (w : Word) (rest : List Word) (opc : Nat) : Decoded → Prop
  | engine {next : Decoded} (hopc : opc ∈ engineOpcodes)
      (hnext : Reads (commandWord (.ofNat 8 opc) 0 0) rest next) :
      RowAnswer w rest opc (engineRow w next)
  | param {next : Param → Decoded} (hopc : opc ∈ paramOpcodes)
      (hnext : ∀ p, Reads (commandWord (.ofNat 8 opc) 0 (paramIndex p)) rest (next p)) :
      RowAnswer w rest opc (paramRow w next)
  | unit {kinds : List Kind} {next : UnitId → Decoded} (hopc : unitsOf opc = some (numbersOf kinds))
      (hnext : ∀ k, admits kinds k = true → Reads (unitWord (.ofNat 8 opc) k) rest (next k)) :
      RowAnswer w rest opc (unitRow w kinds next)
  | unknown (hengine : opc ∉ engineOpcodes) (hparam : opc ∉ paramOpcodes) (hunit : unitsOf opc = none) :
      RowAnswer w rest opc (.reject .unknownOpcode)

section
variable {w : Word} {rest : List Word} {opc : Nat}

theorem RowAnswer.engine0 {i : Instr} (hopc : opc ∈ engineOpcodes) (hwf : wellFormed i = true)
    (henc : encode i = [commandWord (.ofNat 8 opc) 0 0]) :
    RowAnswer w rest opc (engineRow w (operands0 i rest)) :=
  .engine hopc (operands0_reads hwf henc rest)

theorem RowAnswer.engine1 {f : Word → Instr} (hopc : opc ∈ engineOpcodes) (hwf : ∀ a, wellFormed (f a) = true)
    (henc : ∀ a, encode (f a) = [commandWord (.ofNat 8 opc) 0 0, a]) :
    RowAnswer w rest opc (engineRow w (operands1 f rest)) :=
  .engine hopc (operands1_reads hwf henc rest)

theorem RowAnswer.unit0 {kinds : List Kind} {f : UnitId → Instr} (hopc : unitsOf opc = some (numbersOf kinds))
    (hwf : ∀ k, wellFormed (f k) = admits kinds k) (henc : ∀ k, encode (f k) = [unitWord (.ofNat 8 opc) k]) :
    RowAnswer w rest opc (unitRow w kinds (fun k => operands0 (f k) rest)) :=
  .unit hopc fun k hk => operands0_reads ((hwf k).trans hk) (henc k) rest

theorem RowAnswer.unit1 {kinds : List Kind} {f : UnitId → Word → Instr}
    (hopc : unitsOf opc = some (numbersOf kinds)) (hwf : ∀ k a, wellFormed (f k a) = admits kinds k)
    (henc : ∀ k a, encode (f k a) = [unitWord (.ofNat 8 opc) k, a]) :
    RowAnswer w rest opc (unitRow w kinds (fun k => operands1 (f k) rest)) :=
  .unit hopc fun k hk => operands1_reads (fun a => (hwf k a).trans hk) (henc k) rest

end

/-- Each row of the decoder, with what its opcode says of it. -/
theorem decodeRow_answer (w : Word) (rest : List Word) :
    RowAnswer w rest (opcField w).toNat (decodeRow w rest) := by
  unfold decodeRow
  generalize (opcField w).toNat = opc
  split
  case h_1 | h_2 | h_10 => exact .engine1 (by decide) (fun _ => rfl) (fun _ => rfl)
  case h_3 | h_4 | h_5 | h_6 => exact .engine0 (by decide) rfl rfl
  case h_7 => exact .param (by decide) fun p => operands1_reads (fun _ => rfl) (fun _ => rfl) rest
  case h_8 => exact .engine (by decide) (operands10_reads rest)
  case h_9 => exact .param (by decide) fun p => operands0_reads rfl rfl rest
  case h_11 => exact .engine (by decide) (operands2_reads (fun _ _ => rfl) (fun _ _ => rfl) rest)
  case h_14 | h_19 | h_20 | h_21 | h_24 => exact .unit0 (by decide) (fun _ => rfl) (fun _ => rfl)
  case h_30 =>
    simp only [imp_false] at *
    refine .unknown ?_ ?_ ?_
    all_goals simp [engineOpcodes, paramOpcodes, unitsOf, unitOpcodes]; omega
  all_goals exact .unit1 (by decide) (fun _ _ => rfl) (fun _ _ => rfl)

/-! ## The clauses of R340, by the row of the opcode -/

section
variable {w : Word}

theorem illegalWord_fields :
    IllegalWord w ↔
      ((opcField w).toNat ∉ engineOpcodes ∧ (opcField w).toNat ∉ paramOpcodes ∧ unitsOf (opcField w).toNat = none)
      ∨ (((opcField w).toNat ∈ engineOpcodes ∨ (opcField w).toNat ∈ paramOpcodes) ∧ unitField w ≠ 0)
      ∨ (∃ us, unitsOf (opcField w).toNat = some us ∧ (unitField w).toNat ∉ us)
      ∨ (((opcField w).toNat ∈ engineOpcodes ∨ unitsOf (opcField w).toNat ≠ none) ∧ immField w ≠ 0)
      ∨ ((opcField w).toNat ∈ paramOpcodes ∧ 10 ≤ (immField w).toNat) := by
  simp only [IllegalWord, ← opcField_toNat, ← unitField_toNat, ← immField_toNat, BitVec.toNat_ne]
  rfl

theorem illegalWord_of_engine (h : (opcField w).toNat ∈ engineOpcodes) :
    IllegalWord w ↔ unitField w ≠ 0 ∨ immField w ≠ 0 := by
  have hexcl : ∀ opc ∈ engineOpcodes, opc ∉ paramOpcodes ∧ unitsOf opc = none := by decide
  obtain ⟨hparam, hunit⟩ := hexcl _ h
  simp [illegalWord_fields, h, hparam, hunit]

theorem illegalWord_of_param (h : (opcField w).toNat ∈ paramOpcodes) :
    IllegalWord w ↔ unitField w ≠ 0 ∨ 10 ≤ (immField w).toNat := by
  have hexcl : ∀ opc ∈ paramOpcodes, opc ∉ engineOpcodes ∧ unitsOf opc = none := by decide
  obtain ⟨hengine, hunit⟩ := hexcl _ h
  simp [illegalWord_fields, h, hengine, hunit]

theorem illegalWord_of_unit {us : List Nat} (h : unitsOf (opcField w).toNat = some us) :
    IllegalWord w ↔ (unitField w).toNat ∉ us ∨ immField w ≠ 0 := by
  have hexcl : ∀ opc, opc ∈ engineOpcodes ∨ opc ∈ paramOpcodes → unitsOf opc = none := by
    rintro opc (h | h) <;> revert opc <;> decide
  have hengine : (opcField w).toNat ∉ engineOpcodes := fun he => by simp [hexcl _ (.inl he)] at h
  have hparam : (opcField w).toNat ∉ paramOpcodes := fun hp => by simp [hexcl _ (.inr hp)] at h
  simp [illegalWord_fields, h, hengine, hparam]

end

/-! ## The decoder's verdict -/

/-- What the decoder says of a command word and the words after it: illegal, or legal with what its row
makes of its operands. -/
inductive Verdict (w : Word) (rest : List Word) : Decoded → Prop
  | legal {d : Decoded} (hword : ¬ IllegalWord w) (hreads : Reads w rest d) : Verdict w rest d
  | illegal {r : Reject} (hword : IllegalWord w) (hr : r ≠ .incomplete ∧ r ≠ .empty) :
      Verdict w rest (.reject r)

section
variable {w : Word} {rest : List Word}

/-- A word with the given fields is the command word of those fields. -/
theorem eq_commandWord {unit : BitVec 8} {imm : BitVec 16} (hunit : unitField w = unit)
    (himm : immField w = imm) : commandWord (.ofNat 8 (opcField w).toNat) unit imm = w := by
  rw [BitVec.ofNat_toNat, BitVec.setWidth_eq, ← hunit, ← himm, commandWord_fields]

theorem engineRow_verdict {next : Decoded} (hopc : (opcField w).toNat ∈ engineOpcodes)
    (hnext : Reads (commandWord (.ofNat 8 (opcField w).toNat) 0 0) rest next) :
    Verdict w rest (engineRow w next) := by
  unfold engineRow
  split_ifs with hunit himm
  · exact .illegal ((illegalWord_of_engine hopc).mpr (.inl hunit)) (by decide)
  · exact .illegal ((illegalWord_of_engine hopc).mpr (.inr himm)) (by decide)
  · rw [not_not] at hunit himm
    rw [eq_commandWord hunit himm] at hnext
    exact .legal (by simp [illegalWord_of_engine hopc, hunit, himm]) hnext

theorem paramOfIndex_eq_none {n : BitVec 16} : paramOfIndex n = none ↔ 10 ≤ n.toNat :=
  List.getElem?_eq_none_iff

theorem paramRow_verdict {next : Param → Decoded} (hopc : (opcField w).toNat ∈ paramOpcodes)
    (hnext : ∀ p, Reads (commandWord (.ofNat 8 (opcField w).toNat) 0 (paramIndex p)) rest (next p)) :
    Verdict w rest (paramRow w next) := by
  unfold paramRow
  split_ifs with hunit
  · exact .illegal ((illegalWord_of_param hopc).mpr (.inl hunit)) (by decide)
  · rw [not_not] at hunit
    split
    case h_1 p himm =>
      have hreads := hnext p
      rw [eq_commandWord hunit (paramIndex_of_paramOfIndex himm).symm] at hreads
      have hindex : ¬ 10 ≤ (immField w).toNat := by simp [← paramOfIndex_eq_none, himm]
      exact .legal (by simp [illegalWord_of_param hopc, hunit, hindex]) hreads
    case h_2 himm =>
      exact .illegal ((illegalWord_of_param hopc).mpr (.inr (paramOfIndex_eq_none.mp himm))) (by decide)

theorem unitRow_verdict {kinds : List Kind} {next : UnitId → Decoded}
    (hopc : unitsOf (opcField w).toNat = some (numbersOf kinds))
    (hnext : ∀ k, admits kinds k = true → Reads (unitWord (.ofNat 8 (opcField w).toNat) k) rest (next k)) :
    Verdict w rest (unitRow w kinds next) := by
  unfold unitRow
  split
  case h_1 hnone =>
    refine .illegal ((illegalWord_of_unit hopc).mpr (.inl fun hmem => ?_)) (by decide)
    obtain ⟨k, hk, _⟩ := mem_numbersOf.mp hmem
    simp [← hk, unitOfNumber_unitNumber] at hnone
  case h_2 k hsome =>
    have hunit := unitNumber_of_unitOfNumber hsome
    have hmem : (unitField w).toNat ∈ numbersOf kinds ↔ admits kinds k = true := by
      rw [mem_numbersOf, ← hunit]
      exact ⟨fun ⟨j, hj, hadm⟩ => unitNumber_inj hj ▸ hadm, fun hadm => ⟨k, rfl, hadm⟩⟩
    split_ifs with hadm himm
    · exact .illegal ((illegalWord_of_unit hopc).mpr (.inr himm)) (by decide)
    · rw [not_not] at himm
      have hreads := hnext k hadm
      rw [unitWord, eq_commandWord hunit.symm himm] at hreads
      exact .legal (by simp [illegalWord_of_unit hopc, hmem, hadm, himm]) hreads
    · exact .illegal ((illegalWord_of_unit hopc).mpr (.inl (mt hmem.mp hadm))) (by decide)

/-- The one inversion of the decoder, from which the statements about it follow. -/
theorem decode_verdict (w : Word) (rest : List Word) : Verdict w rest (decode (w :: rest)) := by
  show Verdict w rest (decodeRow w rest)
  have hrow := decodeRow_answer w rest
  generalize decodeRow w rest = d at hrow ⊢
  cases hrow with
  | engine hopc hnext => exact engineRow_verdict hopc hnext
  | param hopc hnext => exact paramRow_verdict hopc hnext
  | unit hopc hnext => exact unitRow_verdict hopc hnext
  | unknown hengine hparam hunit =>
    exact .illegal (illegalWord_fields.mpr (.inl ⟨hengine, hparam, hunit⟩)) (by decide)

end

/-- Settles O2: a whole command is what its row read it from, and an illegal word is no command. -/
theorem encodeOfDecode : Obligations.EncodeOfDecode := by
  intro ws rest i h
  cases ws with
  | nil => cases h
  | cons w ws =>
    have hv := decode_verdict w ws
    rw [h] at hv
    cases hv with
    | legal _ hreads => cases hreads with | whole hwf hwords => exact ⟨hwf, hwords⟩

/-- Settles O3: the verdict is one of the two, and a legal word is at most short of operands. -/
theorem illegalWordsAreRejected : Obligations.IllegalWordsAreRejected := by
  intro w rest
  have hv := decode_verdict w rest
  generalize decode (w :: rest) = d at hv
  constructor
  · rintro ⟨r, rfl, hincomplete, _⟩
    cases hv with
    | legal _ hreads => cases hreads; exact absurd rfl hincomplete
    | illegal hword _ => exact hword
  · intro hword
    cases hv with
    | legal hlegal _ => exact absurd hword hlegal
    | illegal _ hr => exact ⟨_, rfl, hr⟩

/-- Settles O4: each line of words is an instruction's encoding, and the last names a unit of kind AP where the
row admits APM alone. -/
theorem decodedExampleWords : Obligations.DecodedExampleWords :=
  ⟨decodeOfEncode (.dlProcess .PD 0x3F800000) [] rfl, decodeOfEncode (.setParam .decay 0x3F733333) [] rfl,
    decodeOfEncode (.apProcess .MAP_B 0x3F800000) [] rfl, decodeOfEncode (.arenaReserve 0x1000) [] rfl,
    decodeOfEncode (.apSetDepth .MAP_A 0x40000000) [] rfl, decodeOfEncode (.lfoReset .LFO_B) [] rfl,
    decodeOfEncode (.opSetCutoff .DLP_A 0) [] rfl, decodeOfEncode (.satSetDrive .SAT_B 0xC1A00000) [] rfl,
    decodeOfEncode (.dzPreset .DZ_DEC 0) [] rfl, decodeOfEncode (.processStereo 0x3F800000 0x3F800000) [] rfl,
    rfl⟩

end Sys2Proof.Encoding
end

section
/-! The step (30_encoding.md R300): what an agent's queue offers the block, that an unfaulted block makes a
step wherever some agent has work, and whom the step serves. -/

namespace Sys2Proof.Serving

open Sys2Proof Sys2Proof.Machine Sys2Proof.Encoding

/-! ## What an agent offers -/

/-- What a queue offers a block that is not faulted: a whole command or an illegal word at its head. -/
inductive Offers (queue : List Word) : Job → Prop
  | command {i : Instr} {rest : List Word} (hqueue : queue = encode i ++ rest) (hwf : wellFormed i = true) :
      Offers queue (.command i rest)
  | illegal {w : Word} {rest : List Word} (hqueue : queue = w :: rest) (hword : IllegalWord w) :
      Offers queue (.illegal rest)

theorem queueJob_of_ok {queue rest : List Word} {i : Instr} (h : decode queue = .ok i rest) :
    queueJob queue = some (.command i rest) := by
  unfold queueJob
  rw [h]

theorem queueJob_of_illegal {w : Word} (rest : List Word) (hword : IllegalWord w) :
    queueJob (w :: rest) = some (.illegal rest) := by
  obtain ⟨r, hr, hincomplete, hempty⟩ := (illegalWordsAreRejected w rest).mpr hword
  unfold queueJob
  rw [hr]
  cases r with
  | incomplete => exact absurd rfl hincomplete
  | empty => exact absurd rfl hempty
  | _ => rfl

theorem queueJob_eq_some {queue : List Word} {j : Job} : queueJob queue = some j ↔ Offers queue j := by
  constructor
  · intro h
    cases queue with
    | nil => cases h
    | cons w ws =>
      by_cases hword : IllegalWord w
      · rw [queueJob_of_illegal ws hword] at h
        cases h
        exact .illegal rfl hword
      · have hv := decode_verdict w ws
        unfold queueJob at h
        generalize decode (w :: ws) = d at h hv
        cases hv with
        | illegal hw _ => exact absurd hw hword
        | legal _ hreads =>
          cases hreads with
          | whole hwf hwords => cases h; exact .command hwords hwf
          | waits => cases h
  · rintro (⟨rfl, hwf⟩ | ⟨rfl, hword⟩)
    · exact queueJob_of_ok (decodeOfEncode _ _ hwf)
    · exact queueJob_of_illegal _ hword

theorem agentJob_of_pending {ag : Agent} (h : ag.pending = []) : agentJob false ag = queueJob ag.queue := by
  simp [agentJob, h]

theorem agentJob_of_begun {ag : Agent} (h : ag.pending ≠ []) : agentJob false ag = some .resume := by
  simp [agentJob, h]

/-- An agent has work exactly where it offers the block a job. -/
theorem hasWork_iff (ag : Agent) : ag.HasWork ↔ ∃ j, agentJob false ag = some j := by
  by_cases hp : ag.pending = []
  · simp only [agentJob_of_pending hp, queueJob_eq_some, Agent.HasWork, hp, ne_eq, not_true_eq_false, false_or]
    constructor
    · rintro (⟨i, rest, hqueue, hwf⟩ | ⟨w, rest, hqueue, hword⟩)
      · exact ⟨_, .command hqueue hwf⟩
      · exact ⟨_, .illegal hqueue hword⟩
    · rintro ⟨_, ⟨hqueue, hwf⟩ | ⟨hqueue, hword⟩⟩
      · exact .inl ⟨_, _, hqueue, hwf⟩
      · exact .inr ⟨_, _, hqueue, hword⟩
  · exact ⟨fun _ => ⟨_, agentJob_of_begun hp⟩, fun _ => .inl hp⟩

/-! ## The listed agents -/

theorem agent_of_mem {s : State} (hs : s.Inv) {a : Nat} {ag : Agent} (h : (a, ag) ∈ s.agents) :
    s.agent a = ag :=
  sparseGet_of_mem _ _ ((sparseWf_iff _ _).mp hs.agentsWf).1 (a, ag) h

/-- An agent that offers a job is listed: an unlisted one has nothing queued and nothing begun. -/
theorem mem_jobs_of_agentJob {s : State} {a : Nat} {j : Job} (h : agentJob s.faulted (s.agent a) = some j) :
    (a, j) ∈ s.jobs := by
  refine mem_jobs.mpr ⟨s.agent a, mem_of_sparseGet_ne Agent.fresh s.agents a fun hfresh => ?_, h⟩
  have hnone : agentJob s.faulted Agent.fresh = none := by cases s.faulted <;> rfl
  rw [State.agent, hfresh, hnone] at h
  cases h

/-! ## An unfaulted block goes on -/

/-- A meaning that, where it stops, stops for storage that does not exist (log 14). -/
def StopsForStorage (r : Result) : Prop := ∀ e, r = .fault e → e = .unitState

theorem stopsForStorage_next (t : State) : StopsForStorage (.next t) := fun _ h => nomatch h

theorem stopsForStorage_whenStorage (ok : Bool) (t : State) : StopsForStorage (whenStorage ok (.next t)) := by
  unfold whenStorage
  rintro e h
  split at h <;> cases h
  rfl

section
variable {s : State} {legal : Bool} {kinds : List Kind} {k : UnitId} {body : Result} (hf : s.faulted = false)
include hf

theorem stopsForStorage_engineCommand (hbody : StopsForStorage body) :
    StopsForStorage (s.engineCommand legal body) := by
  rw [State.engineCommand, if_neg (ne_true_of_eq_false hf)]
  split
  · exact hbody
  · exact stopsForStorage_next _

theorem stopsForStorage_unitCommand (hbody : StopsForStorage body) :
    StopsForStorage (s.unitCommand kinds k body) := by
  rw [State.unitCommand, if_neg (ne_true_of_eq_false hf)]
  split
  · exact stopsForStorage_engineCommand hf hbody
  · exact stopsForStorage_next _

/-- Only the faulted state refuses a command (R1620). -/
theorem stopsForStorage_exec (i : Instr) : StopsForStorage (exec i s) := by
  cases i
  case readStatus => exact stopsForStorage_next _
  case engineCreate | arenaReserve | setParam | setControl | readParam =>
    exact stopsForStorage_engineCommand hf (stopsForStorage_next _)
  case arenaCarve =>
    refine stopsForStorage_engineCommand hf ?_
    split <;> exact stopsForStorage_next _
  case engineInit =>
    refine stopsForStorage_engineCommand hf ?_
    split
    case isFalse => exact stopsForStorage_next _
    split
    case isFalse => exact stopsForStorage_next _
    split
    case h_1 => exact stopsForStorage_whenStorage _ _
    case h_2 => exact stopsForStorage_next _
  case engineReset | processMono | processStereo =>
    exact stopsForStorage_engineCommand hf (stopsForStorage_whenStorage _ _)
  case dlProcess | dlReset | apProcess | apReset | lfoStep =>
    exact stopsForStorage_unitCommand hf (stopsForStorage_whenStorage _ _)
  all_goals exact stopsForStorage_unitCommand hf (stopsForStorage_next _)

/-- From the invariant every instruction gives a next state to a block that is not faulted. -/
theorem exec_next (hs : s.Inv) (i : Instr) : ∃ t, exec i s = .next t := by
  have hsafe := Storage.exec_safe hs i
  have hstop := stopsForStorage_exec hf i
  cases h : exec i s with
  | next t => exact ⟨t, rfl⟩
  | fault e =>
    cases hstop e h
    rw [h] at hsafe
    exact hsafe.elim
  | refused r =>
    rw [h] at hsafe
    exact hsafe.elim

theorem step_next_of_job (hs : s.Inv) {e : Nat × Job} (he : e ∈ s.jobs) : ∃ t, step s = .next t := by
  unfold step
  split
  case h_1 a i rest _ =>
    have hevolves := Keeping.take_evolves s a rest
    exact exec_next (s := s.take a rest) hf (hevolves.keeps hs) i
  case h_2 => exact ⟨_, rfl⟩
  case h_3 => exact ⟨_, rfl⟩
  case h_4 h => exact absurd (pickJob_none h) (List.ne_nil_of_mem he)

end

/-! ## Whom the step serves -/

/-- What the step does for agent `a`: the next write of a SET_CONTROL it has begun (R1110), the command at the
head of its queue (R300), or the fault of an illegal word there (R1610). -/
def Serves (s t : State) (a : Nat) : Prop :=
  (∃ p v more, (s.agent a).pending = (p, v) :: more
      ∧ t.params = setParamValue s.params p v
      ∧ t.agent a = { s.agent a with pending := more }
      ∧ (∀ b, b ≠ a → t.agent b = s.agent b)
      ∧ t = { s with params := t.params, agents := t.agents, cur := a, draws := t.draws })
    ∨ (s.agent a).pending = []
        ∧ ((∃ i rest, (s.agent a).queue = encode i ++ rest ∧ wellFormed i = true
              ∧ exec i (s.take a rest) = .next t)
          ∨ (∃ w rest, (s.agent a).queue = w :: rest ∧ IllegalWord w
              ∧ t = (s.take a rest).raise .illegalCommand))

theorem resumeControl_serves (s : State) {a : Nat} (h : (s.agent a).pending ≠ []) :
    Serves s (s.resumeControl a) a := by
  obtain ⟨⟨p, v⟩, more, hp⟩ := List.exists_cons_of_ne_nil h
  have hstate := resumeControl_state s a hp
  have hagent : ∀ b, (s.resumeControl a).agent b =
      (s.setAgent a { s.agent a with pending := more }).agent b := fun b => by rw [hstate]; rfl
  refine .inl ⟨p, v, more, hp, by rw [hstate], ?_, fun b hb => ?_, by rw [hstate]⟩
  · rw [hagent, State.setAgent_agent_same]
  · rw [hagent, State.setAgent_agent_other _ _ _ _ hb]

/-- An unfaulted block's step serves one of its agents. -/
theorem step_serves {s t : State} (hs : s.Inv) (hf : s.faulted = false) (h : step s = .next t) :
    ∃ a, (s.agent a).HasWork ∧ Serves s t a := by
  obtain ⟨a, ag, j, hmem, hjob, hdone⟩ := step_next h
  cases agent_of_mem hs hmem
  rw [hf] at hjob
  refine ⟨a, (hasWork_iff _).mpr ⟨j, hjob⟩, ?_⟩
  by_cases hp : (s.agent a).pending = []
  · rw [agentJob_of_pending hp, queueJob_eq_some] at hjob
    cases hjob with
    | command hqueue hwf => exact .inr ⟨hp, .inl ⟨_, _, hqueue, hwf, hdone⟩⟩
    | illegal hqueue hword => exact .inr ⟨hp, .inr ⟨_, _, hqueue, hword, hdone⟩⟩
  · rw [agentJob_of_begun hp] at hjob
    cases hjob
    cases hdone
    exact resumeControl_serves s hp

/-- Settles O6: the jobs of the listed agents are their work, each job gives a next state, and the step does one
of them. -/
theorem stepServesOneAgent : Obligations.StepServesOneAgent := by
  intro s hs hf
  refine ⟨⟨?_, ?_⟩, ?_⟩
  · rintro ⟨t, ht⟩
    obtain ⟨a, hwork, _⟩ := step_serves hs hf ht
    exact ⟨a, hwork⟩
  · rintro ⟨a, hwork⟩
    obtain ⟨j, hj⟩ := (hasWork_iff _).mp hwork
    exact step_next_of_job hf hs (mem_jobs_of_agentJob (by rw [hf]; exact hj))
  · intro t ht
    obtain ⟨a, _, hserves⟩ := step_serves hs hf ht
    exact ⟨a, hserves⟩

/-! ## A sole agent -/

section
variable {s : State} {a : Nat} {ag : Agent} (hsole : s.agents = [(a, ag)])
include hsole

theorem agent_of_sole : s.agent a = ag := by
  rw [State.agent, hsole, sparseGet_cons, if_pos rfl]

theorem take_agent_of_sole (rest : List Word) : (s.take a rest).agent a = { ag with queue := rest } := by
  rw [← agent_of_sole hsole]
  exact State.setAgent_agent_same _ _ _

/-- The one job there is needs no draw (R300). -/
theorem pickJob_of_sole (hf : s.faulted = false) (hp : ag.pending = []) {j : Job}
    (hj : queueJob ag.queue = some j) : pickJob (Config.agentDraw s.draws) s.jobs = some (a, j) := by
  simp [State.jobs, hsole, hf, agentJob_of_pending hp, hj, pickJob]

end

/-- Settles O5: the decoded command is the sole agent's one job. -/
theorem stepRunsDecodedCommand : Obligations.StepRunsDecodedCommand := by
  intro s a ag i rest hsole hf hp hdecode
  refine ⟨?_, rfl, take_agent_of_sole hsole rest, rfl⟩
  unfold step
  rw [pickJob_of_sole hsole hf hp (queueJob_of_ok hdecode)]

/-- Raising ILLEGAL_COMMAND sets STATUS bits 3 and 8, which were 0 (R110, R1605). -/
theorem raise_illegalCommand_statusWord {s : State} (hf : s.faulted = false) :
    (s.raise .illegalCommand).statusWord = s.statusWord ||| 0x00000108#32 := by
  simp only [State.statusWord, State.raise_faulted, State.raise_faultCode, State.raise_reserved,
    State.raise_created, State.raise_ready, hf, if_true, Bool.false_eq_true, if_false]
  generalize s.reserved = reserved, s.created = created, s.ready = ready
  revert reserved created ready
  decide

/-- Settles O7: the illegal word is the sole agent's one job, and taking it and raising the fault is all the step
does. -/
theorem illegalWordRaisesIllegalCommand : Obligations.IllegalWordRaisesIllegalCommand := by
  intro s a ag w rest hsole hf hp hqueue hword
  refine ⟨(s.take a rest).raise .illegalCommand, ?_, take_agent_of_sole hsole rest,
    raise_illegalCommand_statusWord (s := s.take a rest) hf, rfl⟩
  unfold step
  rw [pickJob_of_sole hsole hf hp (hqueue ▸ queueJob_of_illegal rest hword)]

end Sys2Proof.Serving
end

section
/-! Responses (00_scope.md R32, R33): a meaning reaches the ports by `respond` alone, so what a command appends
is read off its row (30_encoding.md R310). -/

namespace Sys2Proof.Responses

open Sys2Proof Sys2Proof.Machine

/-! ## What computing leaves of the ports -/

/-- The agents' ports, the issuing agent and FAULTED are as before. -/
structure SamePorts (s t : State) : Prop where
  agents : t.agents = s.agents := by rfl
  cur : t.cur = s.cur := by rfl
  faulted : t.faulted = s.faulted := by rfl

theorem SamePorts.agent {s t : State} (h : SamePorts s t) (a : Nat) : t.agent a = s.agent a := by
  rw [State.agent, State.agent, h.agents]

section
variable {s t : State} (h : SamePorts s t)
include h

/-! The updates of the state that are not of a port. -/

theorem SamePorts.tick : SamePorts s t.tick := ⟨h.agents, h.cur, h.faulted⟩

theorem SamePorts.setDelay {k : UnitId} {u : Delay} : SamePorts s (t.setDelay k u) :=
  ⟨h.agents, h.cur, h.faulted⟩

theorem SamePorts.setAlpha {k : UnitId} {a : F32} : SamePorts s (t.setAlpha k a) :=
  ⟨h.agents, h.cur, h.faulted⟩

theorem SamePorts.setModulation {k : UnitId} {m : Modulation} : SamePorts s (t.setModulation k m) :=
  ⟨h.agents, h.cur, h.faulted⟩

theorem SamePorts.setPole {k : UnitId} {p : OnePole} : SamePorts s (t.setPole k p) :=
  ⟨h.agents, h.cur, h.faulted⟩

theorem SamePorts.setDrive {k : UnitId} {d : F32} : SamePorts s (t.setDrive k d) :=
  ⟨h.agents, h.cur, h.faulted⟩

theorem SamePorts.setOsc {k : UnitId} {o : Oscillator} : SamePorts s (t.setOsc k o) :=
  ⟨h.agents, h.cur, h.faulted⟩

theorem SamePorts.setDezip {k : UnitId} {d : Dezipper} : SamePorts s (t.setDezip k d) :=
  ⟨h.agents, h.cur, h.faulted⟩

theorem SamePorts.setMem {m : Memory} : SamePorts s (t.setMem m) := ⟨h.agents, h.cur, h.faulted⟩

theorem SamePorts.setFeedback {a b : F32} : SamePorts s (t.setFeedback a b) := ⟨h.agents, h.cur, h.faulted⟩

/-! The unit steps. -/

theorem SamePorts.dlStep {k : UnitId} {x : F32} : SamePorts s (dlStep k x t).2 := h.setMem.setDelay

theorem SamePorts.apStep {k : UnitId} {x : F32} : SamePorts s (apStep k x t).2 := by
  rw [apStep_state]
  exact ⟨h.agents, h.cur, h.faulted⟩

theorem SamePorts.opStep {k : UnitId} {x : F32} : SamePorts s (opStep k x t).2 := by
  rw [opStep_state]
  exact ⟨h.agents, h.cur, h.faulted⟩

theorem SamePorts.satStep {k : UnitId} {x : F32} : SamePorts s (satStep k x t).2 := h.tick

theorem SamePorts.dzStep {k : UnitId} {x : F32} : SamePorts s (dzStep k x t).2 := h.setDezip.tick

/-! The set-up and the clearing (R1305, R1310, R1320). -/

theorem SamePorts.forDelays {ks : List UnitId} {f : UnitId → Delay → Delay} :
    SamePorts s (t.forDelays ks f) := by
  rw [forDelays_state]
  exact ⟨h.agents, h.cur, h.faulted⟩

theorem SamePorts.foldl {α : Type} {f : State → α → State} (l : List α)
    (hf : ∀ u x, SamePorts s u → SamePorts s (f u x)) : SamePorts s (l.foldl f t) :=
  List.foldlRecOn l f h fun u hu x _ => hf u x hu

theorem SamePorts.clearSignal {T : Coefs} : SamePorts s (t.clearSignal T) :=
  have hphases := (h.setMem.forDelays (ks := delayUnits) (f := fun _ u => { u with w := 0 })).setOsc.setOsc
  have hpoles := hphases.foldl opUnits fun _ _ hu => hu.setPole
  (hpoles.foldl _ fun _ _ hu => hu.setDezip).setFeedback

theorem SamePorts.create : SamePorts s t.create := by
  rw [Keeping.create_state]
  exact ⟨h.agents, h.cur, h.faulted⟩

theorem SamePorts.carve (ks : List UnitId) : SamePorts s (t.carve ks).2 :=
  Keeping.carve_induction (fun _ _ hu _ => ⟨hu.agents, hu.cur, hu.faulted⟩) ks t h

/-! The engine sample (R1201 to R1230). -/

theorem SamePorts.writeBetas {C : Coefs} : SamePorts s (t.writeBetas C) :=
  h.setPole.setPole.setPole.setPole.setPole.setPole

theorem SamePorts.writeAlphas {C : Coefs} : SamePorts s (t.writeAlphas C) :=
  h.setAlpha.setAlpha.setAlpha.setAlpha.setAlpha.setAlpha.setAlpha.setAlpha

theorem SamePorts.writeExtraAlphas {c : F32} : SamePorts s (t.writeExtraAlphas c) :=
  h.setAlpha.setAlpha.setAlpha.setAlpha

theorem SamePorts.writeDepths {sm : Bool} : SamePorts s (t.writeDepths sm) := h.setModulation.setModulation

theorem SamePorts.writeBack {sm : Bool} {C : Coefs} {n : Nat} : SamePorts s (t.writeBack sm C n) := by
  have hpd := h.setDelay (k := .PD) (u := { t.delay .PD with n := n })
  have hunits := (hpd.writeBetas (C := C)).writeAlphas (C := C) |>.writeDepths (sm := sm)
  have hdrives := (hunits.setDrive (k := .SAT_A) (d := C.drive)).setDrive (k := .SAT_B) (d := C.drive)
  unfold State.writeBack
  split
  · exact hdrives.writeExtraAlphas
  · exact hdrives

theorem SamePorts.setUp : SamePorts s t.setUp := by
  have hlengths : SamePorts s t.setLengths := h.forDelays.setDelay
  have htables : SamePorts s t.setLengths.setTables := hlengths.setOsc.setOsc
  have hunits : SamePorts s (Keeping.initUnits t) := htables.clearSignal.writeBack.writeExtraAlphas
  rw [Keeping.setUp_eq]
  exact ⟨hunits.agents, hunits.cur, hunits.faulted⟩

theorem SamePorts.coefficients : SamePorts s (coefficients t).2 := by
  unfold Machine.coefficients
  split
  · exact h.tick.dzStep.dzStep.dzStep.dzStep.dzStep.dzStep.dzStep.dzStep.dzStep.dzStep
  · exact h.tick

theorem SamePorts.inputPath {x : F32} : SamePorts s (inputPath x t).2 :=
  h.dlStep.opStep.opStep.apStep.apStep.apStep.apStep

theorem SamePorts.modeSwitch {b : Branch} {sm : Bool} {x : F32} : SamePorts s (modeSwitch b sm x t).2.2 := by
  unfold Machine.modeSwitch
  split
  · exact h.apStep.apStep
  · exact h

theorem SamePorts.branchPath {b : Branch} {sm : Bool} {c3 u f : F32} :
    SamePorts s (branchPath b sm c3 u f t).2 :=
  have hdamping := h.tick.apStep.dlStep.satStep.opStep.opStep
  (hdamping.apStep.tick.dlStep.modeSwitch).tick

theorem SamePorts.tank {sm : Bool} {c3 u : F32} : SamePorts s (tank sm c3 u t).2.2 :=
  h.branchPath.branchPath.setFeedback

theorem SamePorts.engSample {x : F32} : SamePorts s (engSample x t).2 :=
  h.coefficients.writeBack.inputPath.tank.tick.tick

end

/-! ## Responses -/

/-- `n` words appended to the issuing agent's response channel, or none where a fault was raised; the rest of
its queue and every other port as before (R32, R33). -/
def Responds (n : Nat) (s t : State) : Prop :=
  (∃ ws, (t.agent s.cur).resp = (s.agent s.cur).resp ++ ws
      ∧ ws.length = if t.faulted = s.faulted then n else 0)
    ∧ (t.agent s.cur).queue = (s.agent s.cur).queue
    ∧ ∀ a, a ≠ s.cur → t.agent a = s.agent a

section
variable {n : Nat} {s t : State}

theorem responds_none (h : SamePorts s t) : Responds 0 s t :=
  ⟨⟨[], by rw [h.agent, List.append_nil], (ite_self _).symm⟩, by rw [h.agent],
    fun a _ => h.agent a⟩

theorem responds_raise (hf : s.faulted = false) (h : SamePorts s t) (c : FaultCode) :
    Responds n s (t.raise c) := by
  refine ⟨⟨[], ?_, ?_⟩, ?_, fun a _ => ?_⟩
  · rw [State.raise_agent, h.agent, List.append_nil]
  · rw [State.raise_faulted, hf, if_neg (by decide)]; rfl
  · rw [State.raise_agent, h.agent]
  · rw [State.raise_agent, h.agent]

/-- One more response, from the same agent. -/
theorem Responds.respond (h : Responds n s t) (hcur : t.cur = s.cur) (hf : t.faulted = s.faulted) (v : Word) :
    Responds (n + 1) s (t.respond v) := by
  obtain ⟨⟨ws, hresp, hlen⟩, hqueue, hother⟩ := h
  have hown := State.respond_agent_cur t v
  rw [hcur] at hown
  refine ⟨⟨ws ++ [v], ?_, ?_⟩, ?_, fun a ha => ?_⟩
  · rw [hown, hresp, List.append_assoc]
  · rw [if_pos hf] at hlen
    rw [State.respond_faulted, if_pos hf, List.length_append, hlen]; rfl
  · rw [hown]; exact hqueue
  · rw [State.respond_agent_other t v a (hcur ▸ ha)]; exact hother a ha

theorem responds_one (h : SamePorts s t) (v : Word) : Responds 1 s (t.respond v) :=
  (responds_none h).respond h.cur h.faulted v

theorem responds_two (h : SamePorts s t) (v w : Word) : Responds 2 s ((t.respond v).respond w) :=
  (responds_one h v).respond h.cur h.faulted w

/-- SET_CONTROL's steps change the pending writes of the agent's port alone (R1110). -/
theorem responds_controlStep (s : State) (ws : List (Param × Word)) : Responds 0 s (s.controlStep ws).tick := by
  cases ws with
  | nil => exact responds_none {}
  | cons w ws =>
    have hown : (s.controlStep (w :: ws)).tick.agent s.cur = { s.agent s.cur with pending := ws } :=
      State.setAgent_agent_same _ _ _
    refine ⟨⟨[], ?_, (ite_self _).symm⟩, ?_, fun a ha => State.setAgent_agent_other _ _ _ _ ha⟩
    · rw [hown, List.append_nil]
    · rw [hown]

end

/-! ## The commands -/

/-- Where `r` is a next state, it has `n` responses more than `s`, or a fault (R33). -/
def EndsResponding (n : Nat) (s : State) (r : Result) : Prop := ∀ t, r = .next t → Responds n s t

section
variable {n : Nat} {s t : State} {legal ok : Bool} {kinds : List Kind} {k : UnitId} {body : Result}

theorem EndsResponding.next (h : Responds n s t) : EndsResponding n s (.next t) := fun _ hu => by
  cases hu; exact h

theorem EndsResponding.whenStorage (h : Responds n s t) : EndsResponding n s (whenStorage ok (.next t)) :=
  fun _ hu => EndsResponding.next h _ (whenStorage_next.mp hu).2

theorem EndsResponding.engineCommand (h : s.faulted = false → EndsResponding n s body) :
    EndsResponding n s (s.engineCommand legal body) := fun t ht => by
  obtain ⟨hf, ⟨_, hbody⟩ | ⟨_, rfl⟩⟩ := engineCommand_next.mp ht
  · exact h hf t hbody
  · exact responds_raise hf {} _

theorem EndsResponding.unitCommand (h : EndsResponding n s body) :
    EndsResponding n s (s.unitCommand kinds k body) := fun t ht => by
  obtain ⟨hf, ⟨_, rfl⟩ | ⟨_, ⟨_, hbody⟩ | ⟨_, rfl⟩⟩⟩ := unitCommand_next.mp ht
  · exact responds_raise hf {} _
  · exact h t hbody
  · exact responds_raise hf {} _

end

/-- ENGINE_INIT responds nothing, whichever check fails (R1310). -/
theorem engineInit_endsResponding (s : State) : EndsResponding 0 s (exec .engineInit s) := by
  refine .engineCommand fun hf => ?_
  have hcarve : SamePorts s (s.carve delayUnits).2 := SamePorts.carve {} delayUnits
  split
  case isFalse => exact .next (responds_raise hf {} _)
  split
  case isFalse => exact .next (responds_raise hf {} _)
  split
  case h_1 u hu =>
    rw [hu] at hcarve
    exact .whenStorage (responds_none hcarve.setUp)
  case h_2 u hu =>
    rw [hu] at hcarve
    exact .next (responds_raise hf hcarve _)

/-- Each command appends what the R column of its row says. -/
theorem exec_endsResponding (i : Instr) (s : State) : EndsResponding (responseCount i) s (exec i s) := by
  have hsame : SamePorts s s := {}
  cases i with
  | arenaReserve cap => exact .engineCommand fun _ => .next (responds_none {})
  | arenaCarve b =>
    refine .engineCommand fun hf => ?_
    split
    · exact .next (responds_raise hf hsame _)
    · exact .next (responds_one {} _)
  | engineCreate => exact .engineCommand fun _ => .next (responds_none hsame.create)
  | engineInit => exact engineInit_endsResponding s
  | engineReset => exact .engineCommand fun _ => .whenStorage (responds_none hsame.clearSignal.tick)
  | readStatus => exact .next (responds_one hsame _)
  | setParam p v => exact .engineCommand fun _ => .next (responds_none {})
  | setControl => exact .engineCommand fun _ => .next (responds_controlStep s _)
  | readParam p => exact .engineCommand fun _ => .next (responds_one hsame _)
  | processMono x => exact .engineCommand fun _ => .whenStorage (responds_one hsame.engSample.tick _)
  | processStereo xL xR =>
    exact .engineCommand fun _ => .whenStorage (responds_two hsame.tick.engSample.tick.tick _ _)
  | dlProcess k x => exact .unitCommand (.whenStorage (responds_one hsame.dlStep _))
  | apProcess k x => exact .unitCommand (.whenStorage (responds_one hsame.apStep _))
  | lfoStep k => exact .unitCommand (.whenStorage (responds_one hsame.setOsc _))
  | opProcess k x => exact .unitCommand (.next (responds_one hsame.opStep _))
  | satProcess k x => exact .unitCommand (.next (responds_one hsame.satStep _))
  | dzSmooth k x => exact .unitCommand (.next (responds_one hsame.dzStep _))
  | dlReset k | apReset k => exact .unitCommand (.whenStorage (responds_none hsame.setMem.setDelay))
  | dlSetDelay k m | apSetDelay k m => exact .unitCommand (.next (responds_none hsame.setDelay))
  | apSetCoef k a => exact .unitCommand (.next (responds_none hsame.setAlpha))
  | apSetDepth k dp => exact .unitCommand (.next (responds_none hsame.setModulation))
  | lfoReset k => exact .unitCommand (.next (responds_none hsame.setOsc))
  | opSetCutoff k wc => exact .unitCommand (.next (responds_none hsame.setPole.tick))
  | opReset k => exact .unitCommand (.next (responds_none hsame.setPole))
  | satSetDrive k dB => exact .unitCommand (.next (responds_none hsame.setDrive))
  | dzSetFactor k v | dzPreset k v => exact .unitCommand (.next (responds_none hsame.setDezip))

/-- Settles O17: what each row appends, read for the outcome at hand. -/
theorem responseCounts : Obligations.ResponseCounts :=
  fun i s t h => exec_endsResponding i s t h

end Sys2Proof.Responses
end

section
/-! The delay line (41_delay_line.md) and the two allpass commands that share its bodies (42_allpass.md R620,
R640). A run of a delay line is told by what is in flight in it: the last `n` inputs, oldest first. -/

namespace Sys2Proof.DelayLine

open Sys2Proof Sys2Proof.Machine Sys2Proof.Keeping Sys2Proof.Storage Sys2Proof.Responses

/-! ## What the updates leave, in the words of the statements -/

section
variable {s t : State} {k : UnitId}

theorem responded_respond (h : SamePorts s t) (v : Word) : Responded s (t.respond v) [v] := by
  have hown := State.respond_agent_cur t v
  rw [h.cur, h.agent] at hown
  refine ⟨hown, fun a ha => ?_⟩
  rw [State.respond_agent_other t v a (h.cur.symm ▸ ha), h.agent]

theorem onlyDelay_setDelay (hk : (delaySlot k).isSome = true) (hsame : t.delays = s.delays) (u : Delay) :
    OnlyDelay s (t.setDelay k u) k u := by
  refine ⟨State.setDelay_delay_same t k u hk, fun j hj => ?_⟩
  rw [State.setDelay_delay_other t k j u hj, State.delay, hsame, ← State.delay]

theorem storedWord_bufWrite (s : State) (k : UnitId) (i : Nat) (v : F32) :
    StoredWord s (s.bufWrite k i v) ((s.delay k).base + 4 * i) v :=
  ⟨memReadWord_writeWord_same _ _ _, fun b hb => memReadByte_writeWord_other _ _ b v hb⟩

/-! ## The read cursor -/

/-- The read cursor in natural numbers (R132). -/
theorem readCell_eq {u : Delay} (h : u.n ≤ u.L) : readCell u = (u.w + u.L - u.n) % u.L :=
  wrapIndex_sub u.w u.n u.L h

/-! ## The commands run their bodies -/

theorem exec_dlProcess (hs : s.Inv) (hrun : s.Running) (hk : admits dlKinds k = true) (x : Word) :
    exec (.dlProcess k x) s = respondWith (dlStep k x s) := by
  obtain ⟨hf, hr⟩ := hrun
  exact (unitCommand_runs hf hk hr).trans (if_pos (delayOk_of_ready hs hr (delay_of_dl hk)))

/-- DL_SET_DELAY and AP_SET_DELAY have one body (R510, R620). -/
theorem exec_setDelay {m : Word} {i : Instr} (hrun : s.Running)
    (hi : i = .dlSetDelay k m ∧ admits dlKinds k = true ∨ i = .apSetDelay k m ∧ admits apKinds k = true) :
    exec i s = .next (s.setLength k m.toNat) := by
  obtain ⟨hf, hr⟩ := hrun
  obtain ⟨rfl, hk⟩ | ⟨rfl, hk⟩ := hi
  · exact unitCommand_runs hf hk hr
  · exact unitCommand_runs hf hk hr

/-- DL_RESET and AP_RESET have one body (R520, R640). -/
theorem exec_reset {i : Instr} (hs : s.Inv) (hrun : s.Running)
    (hi : i = .dlReset k ∧ admits dlKinds k = true ∨ i = .apReset k ∧ admits apKinds k = true) :
    exec i s = .next (s.clearDelay k) := by
  obtain ⟨hf, hr⟩ := hrun
  obtain ⟨rfl, hk⟩ | ⟨rfl, hk⟩ := hi
  · exact (unitCommand_runs hf hk hr).trans (if_pos (regionOk_of_ready hs hr (delay_of_dl hk)))
  · exact (unitCommand_runs hf hk hr).trans (if_pos (regionOk_of_ready hs hr (delay_of_ap hk)))

end

/-- A unit of either family has a place among the delay units. -/
theorem delaySlot_isSome_of_either {k : UnitId} {p q : Prop}
    (h : p ∧ admits dlKinds k = true ∨ q ∧ admits apKinds k = true) : (delaySlot k).isSome = true :=
  h.elim (fun ⟨_, hk⟩ => delaySlot_isSome_of_dl hk) (fun ⟨_, hk⟩ => delaySlot_isSome_of_ap hk)

/-! ## One call -/

/-- Settles O42: the read cursor is the statement's address, since `n` is below the capacity, and the next
state is one cell written, one cursor moved and one response appended. -/
theorem dlProcessReadsThenWrites : Obligations.DlProcessReadsThenWrites := by
  intro k x s hs hrun hk u
  have hlen : u.n + 1 ≤ u.L := (hs.units hrun.2).length k (delay_of_dl hk)
  have hcell : readCell u = (u.w + u.L - u.n) % u.L := readCell_eq (Nat.le_of_succ_le hlen)
  refine ⟨_, exec_dlProcess hs hrun hk x, ?_, storedWord_bufWrite s k u.w x,
    onlyDelay_setDelay (t := s.bufWrite k u.w x) (delaySlot_isSome_of_dl hk) rfl u.advance, rfl⟩
  rw [← hcell]
  exact responded_respond (SamePorts.dlStep {}) _

/-- Settles O43: both commands set the length alone. -/
theorem setDelayClampsToCapacity : Obligations.SetDelayClampsToCapacity := by
  intro k m s i hrun hi
  exact ⟨_, exec_setDelay hrun hi, onlyDelay_setDelay (delaySlot_isSome_of_either hi) rfl _, rfl⟩

/-- A reset clears the bytes of the unit's own buffer, whose place and size it leaves. -/
theorem zeroedBuffers_clearDelay {s : State} {k : UnitId} (hk : (delaySlot k).isSome = true) :
    ZeroedBuffers s (s.clearDelay k) [k] := by
  have hdelay : (s.clearDelay k).delay k = { s.delay k with w := 0 } := State.setDelay_delay_same _ k _ hk
  simp only [ZeroedBuffers, List.forall_mem_singleton, State.bufRead, State.cellAddr, hdelay]
  refine ⟨fun i hi => memReadWord_clear _ _ _ _ ⟨by omega, by omega⟩, fun b hb => ?_⟩
  exact (memReadByte_clear _ _ _ b).trans (if_neg (by omega))

/-- Settles O44: both commands clear the buffer and put the cursor back. -/
theorem resetClearsOneBuffer : Obligations.ResetClearsOneBuffer := by
  intro k s i hs hrun hi
  have hk := delaySlot_isSome_of_either hi
  exact ⟨_, exec_reset hs hrun hi, zeroedBuffers_clearDelay hk, onlyDelay_setDelay hk rfl _, rfl⟩

/-! ## Many calls -/

/-- Settles O46, by induction on the inputs: a call answers its input and keeps `n` at 0. -/
theorem bypassReturnsTheInput : Obligations.BypassReturnsTheInput := by
  intro k xs
  induction xs with
  | nil => intro s _; rfl
  | cons x xs ih =>
    intro s hn
    have hanswer : (dlStep k x s).1 = x := if_pos hn
    have hn' : ((dlStep k x s).2.delay k).n = 0 :=
      setDelay_of (t := s.bufWrite k (s.delay k).w x) (fun u => u.n = 0) hn (fun _ => hn)
    show (dlStep k x s).1 :: (dlRun k xs (dlStep k x s).2).1 = x :: xs
    rw [hanswer, ih _ hn']

/-- The cell of unit `k` that is read in `i` calls' time. -/
def cellAhead (s : State) (k : UnitId) (i : Nat) : Nat :=
  ((s.delay k).w + (s.delay k).L - (s.delay k).n + i) % (s.delay k).L

/-- What a delay line holds that it has yet to answer, oldest first: the cells from the read cursor up to the
write cursor. -/
def inFlight (s : State) (k : UnitId) : List F32 :=
  (List.range (s.delay k).n).map (fun i => s.bufRead k (cellAhead s k i))

/-- The cursors of a delay line lie in its buffer (R131). -/
structure CursorsOk (u : Delay) : Prop where
  write : u.w < u.L
  length : u.n ≤ u.L

theorem CursorsOk.advance {u : Delay} (h : CursorsOk u) : CursorsOk u.advance :=
  ⟨Nat.mod_lt _ (Nat.zero_lt_of_lt h.write), h.length⟩

section
variable {s : State} {k : UnitId}

theorem dlStep_delay (hk : (delaySlot k).isSome = true) (x : F32) :
    (dlStep k x s).2.delay k = (s.delay k).advance := State.setDelay_delay_same _ k _ hk

/-- A call that does not bypass answers the cell read next. -/
theorem dlStep_answer (h : CursorsOk (s.delay k)) (hn : (s.delay k).n ≠ 0) (x : F32) :
    (dlStep k x s).1 = s.bufRead k (cellAhead s k 0) :=
  (if_neg hn).trans (congrArg (s.bufRead k) (readCell_eq h.length))

/-- A call brings every read one call nearer. -/
theorem cellAhead_dlStep (hk : (delaySlot k).isSome = true) (h : CursorsOk (s.delay k)) (x : F32) (i : Nat) :
    cellAhead (dlStep k x s).2 k i = cellAhead s k (i + 1) := by
  have hn := h.length
  simp only [cellAhead, dlStep_delay hk, Delay.advance]
  rw [Nat.add_sub_assoc hn, Nat.add_sub_assoc hn, Nat.add_assoc, Nat.mod_add_mod]
  congr 1
  omega

/-- In `n` calls' time the cell at the write cursor is read. -/
theorem cellAhead_length (h : CursorsOk (s.delay k)) : cellAhead s k (s.delay k).n = (s.delay k).w := by
  have hn := h.length
  rw [cellAhead, Nat.sub_add_cancel (by omega), Nat.add_mod_right, Nat.mod_eq_of_lt h.write]

/-- The cells read before that are others. -/
theorem cellAhead_ne (h : CursorsOk (s.delay k)) {i : Nat} (hpos : 0 < i) (hi : i < (s.delay k).n) :
    cellAhead s k i ≠ (s.delay k).w := by
  obtain ⟨hw, hn⟩ := h
  unfold cellAhead
  by_cases hwrap : (s.delay k).n ≤ (s.delay k).w + i
  · rw [show (s.delay k).w + (s.delay k).L - (s.delay k).n + i
        = (s.delay k).w + i - (s.delay k).n + (s.delay k).L by omega, Nat.add_mod_right,
      Nat.mod_eq_of_lt (by omega)]
    omega
  · rw [Nat.mod_eq_of_lt (by omega)]
    omega

/-- A call writes at the write cursor alone. -/
theorem dlStep_bufRead (hk : (delaySlot k).isSome = true) (x : F32) (c : Nat) :
    (dlStep k x s).2.bufRead k c = if c = (s.delay k).w then x else s.bufRead k c := by
  have hplace : (dlStep k x s).2.bufRead k c = (s.bufWrite k (s.delay k).w x).bufRead k c := by
    simp only [State.bufRead, State.cellAddr, dlStep_delay hk]
    rfl
  rw [hplace]
  split
  case isTrue hc => rw [hc, State.bufWrite_bufRead_same]
  case isFalse hc => rw [State.bufWrite_bufRead_other _ _ _ _ _ hc]

/-- Of the cells to be read after a call, the last holds its input and the others are as before. -/
theorem dlStep_bufRead_ahead (hk : (delaySlot k).isSome = true) (h : CursorsOk (s.delay k)) (x : F32) {i : Nat}
    (hi : i < (s.delay k).n) :
    (dlStep k x s).2.bufRead k (cellAhead (dlStep k x s).2 k i)
      = if i + 1 = (s.delay k).n then x else s.bufRead k (cellAhead s k (i + 1)) := by
  rw [cellAhead_dlStep hk h, dlStep_bufRead hk]
  by_cases hlast : i + 1 = (s.delay k).n
  · rw [if_pos hlast, if_pos (by rw [hlast, cellAhead_length h])]
  · rw [if_neg hlast, if_neg (cellAhead_ne h (Nat.succ_pos i) (by omega))]

/-- A call that does not bypass answers the oldest value in flight. -/
theorem inFlight_eq_cons (h : CursorsOk (s.delay k)) (hn : (s.delay k).n ≠ 0) (x : F32) :
    inFlight s k = (dlStep k x s).1 :: (inFlight s k).tail := by
  obtain ⟨n, hsucc⟩ := Nat.exists_eq_succ_of_ne_zero hn
  rw [dlStep_answer h hn, inFlight, hsucc, List.range_succ_eq_map]
  rfl

/-- That value leaves, and the input goes in behind the others. -/
theorem inFlight_dlStep (hk : (delaySlot k).isSome = true) (h : CursorsOk (s.delay k)) (hn : (s.delay k).n ≠ 0)
    (x : F32) : inFlight (dlStep k x s).2 k = (inFlight s k).tail ++ [x] := by
  have hlen : ((dlStep k x s).2.delay k).n = (s.delay k).n := by rw [dlStep_delay hk]; rfl
  refine List.ext_getElem (by simp [inFlight, hlen]; omega) fun i hi _ => ?_
  have hbound : i < (s.delay k).n := by simpa [inFlight, hlen] using hi
  simp only [inFlight, List.getElem_map, List.getElem_range, dlStep_bufRead_ahead hk h x hbound,
    List.getElem_append, List.getElem_tail, List.length_tail, List.length_map, List.length_range,
    List.getElem_singleton]
  split
  case isTrue hlast => rw [dif_neg (by omega)]
  case isFalse hlast => rw [dif_pos (by omega)]

/-- A delay line is a queue of length `n`: a call puts its input in at the end and answers the head, which is
the input itself where nothing is in flight. -/
theorem inFlight_append (hk : (delaySlot k).isSome = true) (h : CursorsOk (s.delay k)) (x : F32) :
    inFlight s k ++ [x] = (dlStep k x s).1 :: inFlight (dlStep k x s).2 k := by
  by_cases hn : (s.delay k).n = 0
  · have hanswer : (dlStep k x s).1 = x := if_pos hn
    have hn' : ((dlStep k x s).2.delay k).n = 0 := by rw [dlStep_delay hk]; exact hn
    rw [hanswer, inFlight, inFlight, hn, hn']
    rfl
  · rw [inFlight_dlStep hk h hn, ← List.cons_append, ← inFlight_eq_cons h hn]

/-- What a run answers: what was in flight, then its own inputs, as many as there were calls (R530, R531). -/
theorem dlRun_answers (hk : (delaySlot k).isSome = true) : ∀ (xs : List F32) {s : State},
    CursorsOk (s.delay k) → (dlRun k xs s).1 = (inFlight s k ++ xs).take xs.length
  | [], _, _ => rfl
  | x :: xs, s, h => by
    have hnext : CursorsOk ((dlStep k x s).2.delay k) := by rw [dlStep_delay hk]; exact h.advance
    have hqueue : inFlight s k ++ x :: xs = (dlStep k x s).1 :: (inFlight (dlStep k x s).2 k ++ xs) := by
      rw [List.append_cons, inFlight_append hk h, List.cons_append]
    rw [hqueue, List.length_cons, List.take_succ_cons, ← dlRun_answers hk xs hnext]
    rfl

/-- With every cell +0.0, only +0.0 is in flight. -/
theorem inFlight_of_zero (h : CursorsOk (s.delay k)) (hzero : ∀ c, c < (s.delay k).L → s.bufRead k c = 0#32) :
    inFlight s k = List.replicate (s.delay k).n 0#32 := by
  have hpos : 0 < (s.delay k).L := Nat.zero_lt_of_lt h.write
  have hall : ∀ i ∈ List.range (s.delay k).n, s.bufRead k (cellAhead s k i) = 0#32 := fun i _ =>
    hzero _ (Nat.mod_lt _ hpos)
  rw [inFlight, List.map_eq_replicate_iff.mpr hall, List.length_range]

end

/-- The first `m + 1` values of an impulse behind `n` zeros. -/
theorem take_replicate_impulse (n m : Nat) (one zero : F32) :
    (List.replicate n zero ++ one :: List.replicate m zero).take (m + 1)
      = (List.range (m + 1)).map (fun t => if t = n then one else zero) := by
  refine List.ext_getElem (by simp) fun i hi _ => ?_
  rw [List.getElem_take, List.getElem_map, List.getElem_range]
  obtain hlt | rfl | hgt := lt_trichotomy i n
  · rw [List.getElem_append_left (by simpa using hlt), List.getElem_replicate, if_neg hlt.ne]
  · simp
  · simp [List.getElem_append_right, List.getElem_cons, hgt.le, hgt.ne', Nat.sub_ne_zero_of_lt hgt]

/-- Settles O45: an idle line has `n` zeros in flight, and the impulse goes in behind them. -/
theorem pureDelayImpulse : Obligations.PureDelayImpulse := by
  intro k s m hk _ hn hw hzero
  have hcursors : CursorsOk (s.delay k) := ⟨hw, Nat.le_of_succ_le hn⟩
  rw [dlRun_answers (delaySlot_isSome_of_dl hk) _ hcursors, inFlight_of_zero hcursors hzero, List.length_cons,
    List.length_replicate, take_replicate_impulse]

end Sys2Proof.DelayLine
end

section
/-! The allpass (42_allpass.md R600, R601, R610, R630). Both kinds of allpass run one body: they differ in the
cell they read and in the oscillator a modulated one steps. -/

namespace Sys2Proof.Allpass

open Sys2Proof Sys2Proof.Machine Sys2Proof.Keeping Sys2Proof.Storage Sys2Proof.Responses Sys2Proof.DelayLine

/-! ## What one step does, whatever the kind -/

/-- The NaNs an allpass step draws, numbered as in the statements: the modulation product draws the first one,
which the statements number last. -/
def stepNaNs (s : State) (i : Nat) : F32 := s.nan ((i + 1) % 5)

theorem stepNaNs_supply (s : State) : NaNSupply (stepNaNs s) := fun _ => fIsNaN_nan s _

/-- The state AP_PROCESS leaves: the step made and its output appended. -/
def processed (k : UnitId) (x : F32) (s : State) : State := (apStep k x s).2.respond (apStep k x s).1

section
variable {s : State} {k : UnitId}

theorem exec_apProcess (hs : s.Inv) (hrun : s.Running) (hk : admits apKinds k = true) (x : Word) :
    exec (.apProcess k x) s = .next (processed k x s) := by
  obtain ⟨hf, hr⟩ := hrun
  exact (unitCommand_runs hf hk hr).trans (if_pos (apOk_of_ready hs hr (delay_of_ap hk)))

theorem responded_processed (x : F32) : Responded s (processed k x s) [(apStep k x s).1] :=
  responded_respond (SamePorts.apStep {}) _

theorem apStep_mem (x : F32) :
    (apStep k x s).2.arena.mem = (s.bufWrite k (s.delay k).w (apStored k x s)).arena.mem := by
  rw [apStep_state]
  rfl

theorem storedWord_processed (x : F32) :
    StoredWord s (processed k x s) ((s.delay k).base + 4 * (s.delay k).w) (apStored k x s) := by
  have hstored := storedWord_bufWrite s k (s.delay k).w (apStored k x s)
  rw [StoredWord, ← apStep_mem] at hstored
  exact hstored

/-- What a step that reads `d` answers and stores: the answer is flushed, the feedback input is not (R600). -/
theorem processed_of_read {d : F32} (hread : apRead k s = d) (x : F32) :
    let v := fsub (stepNaNs s 0) x (fmul (stepNaNs s 1) d (s.alpha k))
    Responded s (processed k x s)
        [fflush s.cfg.tDn (fadd (stepNaNs s 2) (fmul (stepNaNs s 3) v (s.alpha k)) d)]
      ∧ StoredWord s (processed k x s) ((s.delay k).base + 4 * (s.delay k).w) v := by
  subst hread
  exact ⟨responded_processed x, storedWord_processed x⟩

theorem onlyDelay_processed (hk : admits apKinds k = true) (x : F32) :
    OnlyDelay s (processed k x s) k (s.delay k).advance := by
  have hdelays : (processed k x s).delays = (s.setDelay k (s.delay k).advance).delays := by
    rw [processed, apStep_state]
    rfl
  have hset : OnlyDelay s (s.setDelay k (s.delay k).advance) k (s.delay k).advance :=
    onlyDelay_setDelay (delaySlot_isSome_of_ap hk) rfl _
  simpa only [OnlyDelay, State.delay, hdelays] using hset

/-- Besides the arena's bytes, the delay units, the ports and the draws, a step can change oscillators only. -/
theorem processed_frame (x : F32) :
    processed k x s = { s with
      arena := { s.arena with mem := (processed k x s).arena.mem }, delays := (processed k x s).delays,
      oscs := (processed k x s).oscs, agents := (processed k x s).agents,
      draws := (processed k x s).draws } := by
  rw [processed, apStep_state]
  rfl

/-! ## The cell read and the oscillator, by kind -/

/-- An unmodulated allpass reads at the read cursor. -/
theorem apReadCell_unmodulated (hk : unitKind k = .AP) (hlen : (s.delay k).n ≤ (s.delay k).L) :
    (apReadCell k s).1 = ((s.delay k).w + (s.delay k).L - (s.delay k).n) % (s.delay k).L := by
  have hkind : unitKind k ≠ .APM := by rw [hk]; decide
  rw [apReadCell, if_neg hkind]
  exact readCell_eq hlen

theorem processed_oscs_unmodulated (hk : unitKind k = .AP) (x : F32) : (processed k x s).oscs = s.oscs := by
  have hkind : unitKind k ≠ .APM := by rw [hk]; decide
  rw [processed, apStep_state, if_neg hkind]
  rfl

/-- The modulation product of R600: the depth times the sample at the linked oscillator's phase. -/
def modProduct (k : UnitId) (s : State) : F32 :=
  fmul (stepNaNs s 4) (s.modulation k).depth (lfoStep (s.modulation k).lfo s).1

/-- A modulated allpass reads the rounded product further on; wrapping twice is wrapping once. -/
theorem apReadCell_modulated (hk : unitKind k = .APM) (hpos : 0 < (s.delay k).L) :
    (apReadCell k s).1 =
      wrapIndex (((s.delay k).w : Int) - ((s.delay k).n : Int) + modOffset (modProduct k s)) (s.delay k).L := by
  rw [apReadCell, if_pos hk]
  exact wrapIndex_add _ _ _ hpos

theorem processed_osc_modulated (hk : unitKind k = .APM) (x : F32) (i : UnitId) :
    (processed k x s).osc i = (lfoStep (s.modulation k).lfo s).2.osc i := by
  rw [processed, apStep_state, if_pos hk]
  rfl

end

theorem lfoStep_osc_same {s : State} {j : UnitId} (hj : admits lfoKinds j = true) :
    (lfoStep j s).2.osc j = { s.osc j with idx := ((s.osc j).idx + 1) % (s.osc j).N } :=
  State.setOsc_osc_same _ _ _ (lfoSlot_isSome hj)

theorem lfoStep_osc_other {s : State} {i j : UnitId} (h : i ≠ j) : (lfoStep j s).2.osc i = s.osc i :=
  State.setOsc_osc_other _ _ _ _ h

/-- A product that is finite is rounded to the nearest integer, ties away from zero (R24); another gives no
offset. -/
theorem nearestAway_modOffset {p : F32} (h : fIsFinite p = true) :
    NearestAway (fUnits p) (2 ^ 149) (modOffset p) := by
  rw [modOffset, if_pos h]
  exact nearestAway_roundHalfAway p

theorem modOffset_of_not_finite {p : F32} (h : fIsFinite p = false) : modOffset p = 0 :=
  if_neg (Bool.eq_false_iff.mp h)

/-- The two pairs of a modulated allpass and its oscillator, as ENGINE_CREATE linked them (R1305). -/
theorem linked_pair {s : State} {k j : UnitId} (hbuilt : s.Built)
    (h : k = .MAP_A ∧ j = .LFO_A ∨ k = .MAP_B ∧ j = .LFO_B) :
    unitKind k = .APM ∧ admits lfoKinds j = true ∧ (s.modulation k).lfo = j := by
  obtain ⟨rfl, rfl⟩ | ⟨rfl, rfl⟩ := h
  · exact ⟨rfl, rfl, hbuilt.linkA⟩
  · exact ⟨rfl, rfl, hbuilt.linkB⟩

theorem admits_ap_of_kind {k : UnitId} (h : unitKind k = .AP ∨ unitKind k = .APM) : admits apKinds k = true := by
  obtain h | h := h
  · rw [admits, h]; rfl
  · rw [admits, h]; rfl

/-! ## AP_PROCESS -/

/-- Settles O47: the step reads at the read cursor, and no oscillator moves. -/
theorem apProcessUnmodulated : Obligations.ApProcessUnmodulated := by
  intro k x s hs hrun hkind u al d
  have hk : admits apKinds k = true := admits_ap_of_kind (.inl hkind)
  have hlen : u.n + 1 ≤ u.L := (hs.units hrun.2).length k (delay_of_ap hk)
  have hread : apRead k s = d :=
    congrArg (s.bufRead k) (apReadCell_unmodulated hkind (Nat.le_of_succ_le hlen))
  obtain ⟨hanswer, hstored⟩ := processed_of_read hread x
  have hframe := processed_frame (s := s) (k := k) x
  rw [processed_oscs_unmodulated hkind] at hframe
  exact ⟨processed k x s, stepNaNs s, exec_apProcess hs hrun hk x, stepNaNs_supply s, hanswer, hstored,
    onlyDelay_processed hk x, hframe⟩

/-- Settles O48: the step reads the rounded product further on, and its own oscillator moves. -/
theorem apProcessModulated : Obligations.ApProcessModulated := by
  intro k j x s hs hrun hpair u al o
  obtain ⟨hkind, hj, hlink⟩ := linked_pair (hs.built (hs.order.2 hrun.2)) hpair
  have hk : admits apKinds k = true := admits_ap_of_kind (.inr hkind)
  have hpos : 0 < u.L := Nat.zero_lt_of_lt ((hs.units hrun.2).cursor k (delay_of_ap hk))
  refine ⟨processed k x s, stepNaNs s, modOffset (modProduct k s), exec_apProcess hs hrun hk x,
    stepNaNs_supply s, ?_⟩
  intro p r d v
  have hproduct : modProduct k s = p := by rw [modProduct, hlink]; rfl
  have hread : apRead k s = d := congrArg (s.bufRead k) (apReadCell_modulated hkind hpos)
  obtain ⟨hanswer, hstored⟩ := processed_of_read hread x
  have hosc (i : UnitId) : (processed k x s).osc i = (lfoStep j s).2.osc i := by
    rw [processed_osc_modulated hkind, hlink]
  exact ⟨fun h => hproduct ▸ nearestAway_modOffset (hproduct ▸ h),
    fun h => modOffset_of_not_finite (hproduct ▸ h), hanswer, hstored,
    onlyDelay_processed hk x, (hosc j).trans (lfoStep_osc_same hj),
    fun i hi => (hosc i).trans (lfoStep_osc_other hi), processed_frame x⟩

/-! ## The setters -/

/-- A clamp with the NaN asked for first, as the statements write it. -/
theorem fclamp_eq (v lo hi : F32) :
    fclamp v lo hi = if fIsNaN v || flt v lo then lo else if flt hi v then hi else v := by
  rw [fclamp, Bool.or_comm]

theorem exec_apSetCoef {s : State} {k : UnitId} (hrun : s.Running) (hk : admits apKinds k = true) (a : Word) :
    exec (.apSetCoef k a) s = .next (s.setAlpha k (alphaClamp a)) :=
  unitCommand_runs hrun.1 hk hrun.2

theorem exec_apSetDepth {s : State} {k : UnitId} (hrun : s.Running) (hk : admits apmKinds k = true) (dp : Word) :
    exec (.apSetDepth k dp) s =
      .next (s.setModulation k { s.modulation k with depth := fclamp dp f0 Config.fltMax }) :=
  unitCommand_runs hrun.1 hk hrun.2

/-- Settles O49: each setter is one write to one bank, of the clamped operand. -/
theorem allpassSettersClamp : Obligations.AllpassSettersClamp := by
  refine ⟨fun k a s hrun hk => ⟨_, exec_apSetCoef hrun hk a, ?_, fun j hj => ?_, rfl⟩,
    fun k dp s hrun hk => ⟨_, exec_apSetDepth hrun hk dp, ?_, fun j hj => ?_, rfl⟩⟩
  · exact (State.setAlpha_alpha_same _ _ _ (allpassSlot_isSome hk)).trans (fclamp_eq a _ _)
  · exact State.setAlpha_alpha_other _ _ _ _ hj
  · rw [State.setModulation_modulation_same _ _ _ (modSlot_isSome hk), fclamp_eq]
    rfl
  · exact State.setModulation_modulation_other _ _ _ _ hj

end Sys2Proof.Allpass
end

section
/-! The modulation oscillator (43_lfo.md). A run of calls is told by the oscillator the first call meets: call
`t` finds it moved on by `t` samples. -/

namespace Sys2Proof.Lfo

open Sys2Proof Sys2Proof.Machine Sys2Proof.Keeping Sys2Proof.Storage Sys2Proof.Responses Sys2Proof.DelayLine
  Sys2Proof.Allpass

/-! ## The commands run their bodies -/

section
variable {s : State} {k : UnitId}

theorem exec_lfoStep (hs : s.Inv) (hrun : s.Running) (hk : admits lfoKinds k = true) :
    exec (.lfoStep k) s = respondWith (lfoStep k s) := by
  obtain ⟨hf, hr⟩ := hrun
  exact (unitCommand_runs hf hk hr).trans (if_pos (oscOk_of_ready hs hr hk))

theorem exec_lfoReset (hrun : s.Running) (hk : admits lfoKinds k = true) :
    exec (.lfoReset k) s = .next (s.resetPhase k) :=
  unitCommand_runs hrun.1 hk hrun.2

/-- Where the phase lies in the table (R131), the sample a call answers is one of the table's. -/
theorem lfoStep_sample (hs : s.Inv) (hr : s.ready = true) (hk : admits lfoKinds k = true) :
    (s.osc k).table[(s.osc k).idx]? = some (lfoStep k s).1 := by
  obtain ⟨_, _, htable, hphase⟩ := (hs.units hr).tables k hk
  have hin : (s.osc k).idx < (s.osc k).table.length := htable.symm ▸ hphase
  rw [lfoStep, List.getD_eq_getElem _ _ hin]
  exact List.getElem?_eq_getElem hin

theorem responded_lfoStep :
    Responded s ((lfoStep k s).2.respond (lfoStep k s).1) [(lfoStep k s).1] :=
  responded_respond (SamePorts.setOsc {}) _

end

/-- Settles O50: each command is one write to the oscillator bank, and LFO_STEP appends the sample it read. -/
theorem lfoStepAndReset : Obligations.LfoStepAndReset := by
  intro k s hs hrun hk
  constructor
  · exact ⟨_, _, exec_lfoStep hs hrun hk, lfoStep_sample hs hrun.2 hk, responded_lfoStep,
      lfoStep_osc_same hk, fun j hj => lfoStep_osc_other hj, rfl⟩
  · exact ⟨_, exec_lfoReset hrun hk, State.setOsc_osc_same _ _ _ (lfoSlot_isSome hk),
      fun j hj => State.setOsc_osc_other _ _ _ _ hj, rfl⟩

/-! ## Many calls -/

/-- An oscillator as `n` calls leave it: `n` samples further round its table. -/
def ahead (o : Oscillator) (n : Nat) : Oscillator := { o with idx := (o.idx + n) % o.N }

/-- The sample at an oscillator's phase. -/
def sample (o : Oscillator) : F32 := o.table.getD o.idx f0

theorem ahead_ahead (o : Oscillator) (m n : Nat) : ahead (ahead o m) n = ahead o (m + n) := by
  simp only [ahead, Nat.mod_add_mod, Nat.add_assoc]

theorem ahead_zero {o : Oscillator} (h : o.idx < o.N) : ahead o 0 = o := by
  rw [ahead, Nat.add_zero, Nat.mod_eq_of_lt h]

/-- Once round the table is back at the same phase. -/
theorem ahead_period {o : Oscillator} (h : o.idx < o.N) : ahead o o.N = o := by
  rw [ahead, Nat.add_mod_right, Nat.mod_eq_of_lt h]

theorem ahead_idx_lt {o : Oscillator} (h : o.idx < o.N) (n : Nat) : (ahead o n).idx < (ahead o n).N :=
  Nat.mod_lt _ (Nat.zero_lt_of_lt h)

section
variable {k : UnitId} (hk : admits lfoKinds k = true)
include hk

theorem lfoStep_osc_ahead (s : State) : (lfoStep k s).2.osc k = ahead (s.osc k) 1 := lfoStep_osc_same hk

/-- What a run leaves and what it answers: `n` calls move the phase on by `n`, and call `t` answers the sample
that lies `t` ahead of the first one's (R730). -/
theorem lfoRun_eq (n : Nat) {s : State} (h : (s.osc k).idx < (s.osc k).N) :
    (lfoRun k n s).2.osc k = ahead (s.osc k) n
      ∧ (lfoRun k n s).1 = (List.range n).map (fun t => sample (ahead (s.osc k) t)) := by
  induction n generalizing s with
  | zero => exact ⟨(ahead_zero h).symm, rfl⟩
  | succ n ih =>
    have hstep := lfoStep_osc_ahead hk s
    have hnext : ((lfoStep k s).2.osc k).idx < ((lfoStep k s).2.osc k).N := hstep ▸ ahead_idx_lt h 1
    have hfirst : (lfoStep k s).1 = sample (ahead (s.osc k) 0) := (congrArg sample (ahead_zero h)).symm
    obtain ⟨hphase, hanswers⟩ := ih hnext
    simp only [hstep, ahead_ahead, Nat.add_comm 1] at hphase hanswers
    refine ⟨hphase, ?_⟩
    rw [lfoRun, hfirst, hanswers, List.range_succ_eq_map, List.map_cons, List.map_map]
    rfl

end

/-- Settles O51: a run answers the samples ahead in order, and `N` ahead is the oscillator itself. -/
theorem lfoIsPeriodic : Obligations.LfoIsPeriodic := by
  intro k s n hk _ hphase
  obtain ⟨_, hanswers⟩ := lfoRun_eq hk n hphase
  obtain ⟨hreturn, _⟩ := lfoRun_eq hk (s.osc k).N hphase
  exact ⟨hanswers, hreturn.trans (ahead_period hphase)⟩

end Sys2Proof.Lfo
end

section
/-! The one-pole filters (44_one_pole.md). Each command is one write to the bank of filters; OP_PROCESS makes it
with what R800 computes for the unit's kind, and appends the answer. -/

namespace Sys2Proof.OnePoleFilter

open Sys2Proof Sys2Proof.Machine Sys2Proof.Responses Sys2Proof.DelayLine Sys2Proof.Allpass

/-! ## The step, by kind -/

theorem admits_op_of_kind {k : UnitId} (h : unitKind k = .OPL ∨ unitKind k = .OPH) : admits opKinds k = true := by
  obtain h | h := h
  · rw [admits, h]; rfl
  · rw [admits, h]; rfl

section
variable {s : State} {k : UnitId}

/-- A lowpass keeps the flushed output that it answers (R800). -/
theorem opStep_lowpass (hkind : unitKind k = .OPL) (x : F32) :
    opStep k x s =
      (smoothed s (s.pole k).beta x (s.pole k).s,
        (s.setPole k ⟨(s.pole k).beta, smoothed s (s.pole k).beta x (s.pole k).s⟩).tick) :=
  if_pos hkind

/-- A highpass keeps the unflushed midpoint, not its answer (R800). -/
theorem opStep_highpass (hkind : unitKind k = .OPH) (x : F32) :
    opStep k x s = (opHigh k x s, (s.setPole k ⟨(s.pole k).beta, opMid k x s⟩).tick) := by
  have hnot : unitKind k ≠ .OPL := by rw [hkind]; decide
  exact if_neg hnot

/-! ## What OP_PROCESS leaves -/

/-- The state OP_PROCESS leaves when its step answers `y` and keeps the fields `p`. -/
def processed (k : UnitId) (y : F32) (p : OnePole) (s : State) : State := (s.setPole k p).tick.respond y

theorem responded_processed (y : F32) (p : OnePole) : Responded s (processed k y p s) [y] :=
  responded_respond (SamePorts.setPole {}).tick y

theorem processed_frame (y : F32) (p : OnePole) :
    processed k y p s = { s with
      poles := (processed k y p s).poles, agents := (processed k y p s).agents,
      draws := (processed k y p s).draws } := rfl

theorem processed_pole_same (hk : admits opKinds k = true) (y : F32) (p : OnePole) :
    (processed k y p s).pole k = p :=
  State.setPole_pole_same _ _ _ (poleSlot_isSome hk)

theorem processed_pole_other (y : F32) (p : OnePole) : ∀ j, j ≠ k → (processed k y p s).pole j = s.pole j :=
  fun _ hj => State.setPole_pole_other _ _ _ _ hj

/-! ## The commands run their bodies -/

variable (hrun : s.Running)
include hrun

/-- OP_PROCESS, from what its step answers and keeps. -/
theorem exec_opProcess {x y : F32} {p : OnePole} (hk : admits opKinds k = true)
    (hstep : opStep k x s = (y, (s.setPole k p).tick)) :
    exec (.opProcess k x) s = .next (processed k y p s) :=
  (unitCommand_runs hrun.1 hk hrun.2).trans (congrArg respondWith hstep)

theorem exec_opSetCutoff (hk : admits opKinds k = true) (wc : Word) :
    exec (.opSetCutoff k wc) s =
      .next ((s.setPole k { s.pole k with
        beta := fnum Config.expF (s.nan 0) (fneg (fclamp wc f0 Config.wcMax)) }).tick) :=
  unitCommand_runs hrun.1 hk hrun.2

theorem exec_opReset (hk : admits opKinds k = true) : exec (.opReset k) s = .next (s.clearPole k) :=
  unitCommand_runs hrun.1 hk hrun.2

end

/-- Settles O52: by the unit's kind, the step answers and keeps what R800 says, and the rest is one write. -/
theorem opProcessFilters : Obligations.OpProcessFilters := by
  intro k x s hrun b
  constructor
  · intro hkind
    have hk := admits_op_of_kind (.inl hkind)
    exact ⟨_, s.nan, exec_opProcess hrun hk (opStep_lowpass hkind x), fIsNaN_nan s, responded_processed _ _,
      processed_pole_same hk _ _, processed_pole_other _ _, processed_frame _ _⟩
  · intro hkind
    have hk := admits_op_of_kind (.inr hkind)
    exact ⟨_, s.nan, exec_opProcess hrun hk (opStep_highpass hkind x), fIsNaN_nan s, responded_processed _ _,
      processed_pole_same hk _ _, processed_pole_other _ _, processed_frame _ _⟩

/-- Settles O53: each command is one write to the bank, OP_SET_CUTOFF's of the clamped operand's coefficient. -/
theorem opSetCutoffAndReset : Obligations.OpSetCutoffAndReset := by
  intro k s hrun hk
  have hslot := poleSlot_isSome hk
  constructor
  · intro wc
    refine ⟨_, s.nan, exec_opSetCutoff hrun hk wc, fIsNaN_nan s, ?_,
      fun j hj => State.setPole_pole_other _ _ _ _ hj, rfl⟩
    rw [State.tick_pole, State.setPole_pole_same _ _ _ hslot, fclamp_eq]
    rfl
  · exact ⟨_, exec_opReset hrun hk, State.setPole_pole_same _ _ _ hslot,
      fun j hj => State.setPole_pole_other _ _ _ _ hj, rfl⟩

end Sys2Proof.OnePoleFilter
end

section
/-! The saturators (45_saturator.md). The unit's kind picks the curve and the drive picks its branch. SAT_PROCESS
answers the curve's value, and SAT_SET_DRIVE is one write to the bank of drives. -/

namespace Sys2Proof.Saturation

open Sys2Proof Sys2Proof.Machine Sys2Proof.Responses Sys2Proof.DelayLine

/-! ## The curve -/

/-- R900 as one formula: the curve `F` with coefficients `(a, c)` at drive `d` dB, the NaN results taken from
`q`. -/
def curve (F : F32 → F32) (a c d x : F32) (q : Nat → F32) : F32 :=
  let g := fnum Config.pow10F (q 0) (fdiv (q 1) d f20)
  fdiv (q 3) (fnum F (q 4) (fmul (q 5) x g))
    (if flt g f1 then fnum F (q 2) g else fmul (q 6) (fadd (q 7) a (fmul (q 8) c g)) (fnum F (q 2) g))

/-- The NaNs an evaluation draws, numbered as in the statement: there the outer quotient (3 to 5) comes before
its divisor (6 to 8), in the model after it. -/
def evalNaNs (s : State) (i : Nat) : F32 := s.nan (if i < 3 then i else i % 6 + 3)

theorem evalNaNs_supply (s : State) : NaNSupply (evalNaNs s) := fun _ => fIsNaN_nan s _

/-- SAT_A has the arctangent curve and SAT_B the hyperbolic tangent (R900, D21). -/
theorem satCurve_eq {k : UnitId} {F : F32 → F32} {a c : F32}
    (h : k = .SAT_A ∧ F = Config.atanF ∧ a = f0p9 ∧ c = f0p1
      ∨ k = .SAT_B ∧ F = Config.tanhF ∧ a = f0p7 ∧ c = f0p3) :
    admits satKinds k = true ∧ satCurve k = (F, a, c) := by
  obtain ⟨rfl, rfl, rfl, rfl⟩ | ⟨rfl, rfl, rfl, rfl⟩ := h
  · exact ⟨rfl, if_pos rfl⟩
  · exact ⟨rfl, if_neg (by decide)⟩

section
variable {s : State} {k : UnitId}

theorem satEval_eq_curve {F : F32 → F32} {a c : F32} (h : satCurve k = (F, a, c)) (x : F32) :
    satEval k x s = curve F a c (s.drive k) x (evalNaNs s) := by
  rw [satEval, h]
  rfl

/-! ## The commands run their bodies -/

variable (hrun : s.Running) (hk : admits satKinds k = true)
include hrun hk

/-- SAT_PROCESS only draws and answers: no unit, buffer or register is written (R901). -/
theorem exec_satProcess (x : Word) : exec (.satProcess k x) s = .next (s.tick.respond (satEval k x s)) :=
  unitCommand_runs hrun.1 hk hrun.2

theorem exec_satSetDrive (dB : Word) : exec (.satSetDrive k dB) s = .next (s.setDrive k dB) :=
  unitCommand_runs hrun.1 hk hrun.2

end

/-- Settles O54: the kind gives the curve that is answered, and the drive is stored as it comes. -/
theorem satProcessAndSetDrive : Obligations.SatProcessAndSetDrive := by
  intro k F a c s hrun hunit
  obtain ⟨hk, hcurve⟩ := satCurve_eq hunit
  constructor
  · intro x
    have hexec := exec_satProcess hrun hk x
    rw [satEval_eq_curve hcurve x] at hexec
    exact ⟨_, evalNaNs s, hexec, evalNaNs_supply s, responded_respond (SamePorts.tick {}) _, rfl⟩
  · intro dB
    exact ⟨_, exec_satSetDrive hrun hk dB, State.setDrive_drive_same _ _ _ (satSlot_isSome hk),
      fun j hj => State.setDrive_drive_other _ _ _ _ hj, rfl⟩

end Sys2Proof.Saturation
end

section
/-! The dezippers (46_dezipper.md). Each command is one write to the bank of dezippers. DZ_SMOOTH makes it with
the flushed sum of R1000, which it also answers; the two setters each replace one field. -/

namespace Sys2Proof.Dezipping

open Sys2Proof Sys2Proof.Machine Sys2Proof.Responses Sys2Proof.DelayLine Sys2Proof.Allpass

section
variable {s : State} {k : UnitId}

/-! ## One write to the bank -/

/-- What every command of a dezipper leaves in the bank: the unit's new fields, and those of all others. -/
theorem dezips_setDezip (hk : admits dzKinds k = true) (d : Dezipper) :
    (s.setDezip k d).dezip k = d ∧ ∀ j, j ≠ k → (s.setDezip k d).dezip j = s.dezip j :=
  ⟨State.setDezip_dezip_same s k d (dzSlot_isSome hk), fun j hj => State.setDezip_dezip_other s k j d hj⟩

/-! ## What DZ_SMOOTH leaves -/

/-- The state DZ_SMOOTH leaves when its step answers `y`, which is also what the unit remembers. -/
def glided (k : UnitId) (y : F32) (s : State) : State :=
  (s.setDezip k { s.dezip k with last := y }).tick.respond y

theorem responded_glided (y : F32) : Responded s (glided k y s) [y] :=
  responded_respond (SamePorts.setDezip {}).tick y

theorem dezips_glided (hk : admits dzKinds k = true) (y : F32) :
    (glided k y s).dezip k = ⟨(s.dezip k).beta, y⟩ ∧ ∀ j, j ≠ k → (glided k y s).dezip j = s.dezip j :=
  dezips_setDezip hk _

theorem glided_frame (y : F32) :
    glided k y s = { s with
      dezips := (glided k y s).dezips, agents := (glided k y s).agents, draws := (glided k y s).draws } := rfl

/-! ## The commands run their bodies -/

variable (hrun : s.Running) (hk : admits dzKinds k = true)
include hrun hk

/-- DZ_SMOOTH answers and remembers one value, the flushed sum (R1000). -/
theorem exec_dzSmooth (x : Word) :
    exec (.dzSmooth k x) s = .next (glided k (smoothed s (s.dezip k).beta x (s.dezip k).last) s) :=
  unitCommand_runs hrun.1 hk hrun.2

theorem exec_dzSetFactor (b : Word) :
    exec (.dzSetFactor k b) s =
      .next (s.setDezip k { s.dezip k with beta := fclamp b f0 Config.alphaMax }) :=
  unitCommand_runs hrun.1 hk hrun.2

theorem exec_dzPreset (v : Word) :
    exec (.dzPreset k v) s = .next (s.setDezip k { s.dezip k with last := v }) :=
  unitCommand_runs hrun.1 hk hrun.2

end

/-- Settles O55: the value answered is the value remembered, and the model's sum is the statement's, with its
NaN results drawn from the state. -/
theorem dzSmoothGlides : Obligations.DzSmoothGlides := by
  intro k x s hrun hk b
  obtain ⟨hown, hother⟩ := dezips_glided hk (smoothed s b x (s.dezip k).last)
  exact ⟨_, s.nan, exec_dzSmooth hrun hk x, fIsNaN_nan s, responded_glided _, hown, hother, glided_frame _⟩

/-- Settles O56: each setter is one write to the bank, DZ_SET_FACTOR's of the clamped operand. -/
theorem dzSetFactorAndPreset : Obligations.DzSetFactorAndPreset := by
  intro k v s hrun hk
  constructor
  · obtain ⟨hown, hother⟩ := dezips_setDezip (s := s) hk { s.dezip k with beta := fclamp v f0 Config.alphaMax }
    refine ⟨_, exec_dzSetFactor hrun hk v, ?_, hother, rfl⟩
    rw [hown, fclamp_eq]
    rfl
  · obtain ⟨hown, hother⟩ := dezips_setDezip (s := s) hk { s.dezip k with last := v }
    exact ⟨_, exec_dzPreset hrun hk v, hown, hother, rfl⟩

end Sys2Proof.Dezipping
end

section
/-! The control commands (47_engine_control.md R1101 to R1120). A SET_CONTROL is told by the writes it has left:
whatever order is drawn, they are the ten registers once each, and writes of different registers commute. -/

namespace Sys2Proof.Control

open Sys2Proof Sys2Proof.Machine Sys2Proof.Keeping Sys2Proof.Serving Sys2Proof.DelayLine Sys2Proof.Allpass

/-! ## The commands run their bodies -/

section
variable {s : State} (hf : s.faulted = false)
include hf

theorem exec_setParam (p : Param) (v : Word) : exec (.setParam p v) s = .next (s.writeParam p v) :=
  engineCommand_runs hf rfl

theorem exec_readParam (p : Param) : exec (.readParam p) s = .next (s.respond (paramWord s.params p)) :=
  engineCommand_runs hf rfl

theorem exec_setControl (a b c d e f g h i j : Word) :
    exec (.setControl a b c d e f g h i j) s =
      .next (s.controlStep
        (drawOrder (Config.orderDraw s.draws) 10 (controlWrites a b c d e f g h i j))).tick :=
  engineCommand_runs hf rfl

end

/-! ## One register -/

/-- An operand word is nonzero as an integer where its pattern is (R303). -/
theorem u32op_ne_zero_iff (v : Word) : u32op v ≠ 0 ↔ v ≠ 0#32 :=
  not_congr (BitVec.toNat_inj (x := v) (y := 0#32))

/-- Register 9 takes 1 for a nonzero operand (R121). -/
theorem paramWord_setParamValue_smoothed (ps : Params) (v : Word) :
    paramWord (setParamValue ps .smoothed v) .smoothed = if v = 0#32 then 0#32 else 1#32 := by
  simp only [setParamValue, paramWord, u32op_ne_zero_iff, decide_eq_true_eq, ite_not]

/-- Settles O27: the operand is clamped to the row of R121's table, and register 9 has a rule of its own. -/
theorem setParamClampsOneRegister : Obligations.SetParamClampsOneRegister := by
  intro p v s hf clamped
  refine ⟨_, exec_setParam hf p v, ?_, fun q hq => paramWord_setParamValue_other s.params hq v, rfl⟩
  rw [State.writeParam_params]
  by_cases hp : p = .smoothed
  · subst hp
    exact paramWord_setParamValue_smoothed s.params v
  · rw [paramWord_setParamValue_same _ hp, paramClamp, fclamp_eq]
    cases p
    case smoothed => exact absurd rfl hp
    all_goals rfl

/-- Settles O28: the word answered is the register's, row by row. -/
theorem readParamAnswersTheRegister : Obligations.ReadParamAnswersTheRegister := by
  intro p s hf
  refine ⟨_, exec_readParam hf p, ?_, rfl⟩
  have hresponded := responded_respond (s := s) {} (paramWord s.params p)
  cases p <;> exact hresponded

/-! ## The ten writes of a SET_CONTROL -/

/-- The order drawn starts with one of the ten writes, and the other nine follow. -/
theorem drawOrder_controlWrites (draw : Nat → Nat) (a b c d e f g h i j : Word) :
    ∃ p v more, drawOrder draw 10 (controlWrites a b c d e f g h i j) = (p, v) :: more
      ∧ ((p, v) :: more).Perm (controlWrites a b c d e f g h i j) := by
  have hperm := drawOrder_perm draw 10 (controlWrites a b c d e f g h i j) rfl
  cases horder : drawOrder draw 10 (controlWrites a b c d e f g h i j) with
  | nil => rw [horder] at hperm; cases hperm.length_eq
  | cons w more => exact ⟨w.1, w.2, more, rfl, horder ▸ hperm⟩

/-- What a step of a SET_CONTROL leaves: one register written and the other writes with the issuing agent. -/
theorem controlStep_cons (s : State) (p : Param) (v : Word) (more : List (Param × Word)) :
    (s.controlStep ((p, v) :: more)).tick = { s with
      params := setParamValue s.params p v,
      agents := (s.setAgent s.cur { s.agent s.cur with pending := more }).agents, draws := s.draws + 1 } := rfl

/-- Settles O29: the order drawn is a permutation of the ten writes, and the first of it is performed. -/
theorem setControlBeginsTenWrites : Obligations.SetControlBeginsTenWrites := by
  intro a b c d e f g h i j s hf
  obtain ⟨p, v, more, horder, hperm⟩ :=
    drawOrder_controlWrites (Config.orderDraw s.draws) a b c d e f g h i j
  have hexec := exec_setControl hf a b c d e f g h i j
  rw [horder, controlStep_cons] at hexec
  exact ⟨_, p, v, more, hexec, hperm, rfl, State.setAgent_agent_same _ _ _,
    fun w hw => State.setAgent_agent_other _ _ _ _ hw, rfl⟩

/-! ## Writes in any order -/

/-- The registers after a list of writes, the first of it performed first. -/
def writeAll (ps : Params) (ws : List (Param × Word)) : Params :=
  ws.foldl (fun ps w => setParamValue ps w.1 w.2) ps

/-- A write reads and writes its own register alone. -/
theorem setParamValue_comm (ps : Params) {p q : Param} (h : p ≠ q) (v w : Word) :
    setParamValue (setParamValue ps p v) q w = setParamValue (setParamValue ps q w) p v := by
  cases p <;> cases q <;> first | rfl | exact absurd rfl h

/-- Writes of different registers may be performed in any order. -/
theorem writeAll_perm {ws ws' : List (Param × Word)} (h : ws.Perm ws') (hdistinct : (ws.map Prod.fst).Nodup)
    (ps : Params) : writeAll ps ws = writeAll ps ws' := by
  refine h.foldl_eq' (fun w hw w' hw' acc => ?_) ps
  by_cases hkey : w.1 = w'.1
  · rw [List.inj_on_of_nodup_map hdistinct hw hw' hkey]
  · exact setParamValue_comm acc hkey w.2 w'.2

/-- A SET_CONTROL writes each register once (R330, R1110). -/
theorem controlWrites_distinct {a b c d e f g h i j : Word} :
    ((controlWrites a b c d e f g h i j).map Prod.fst).Nodup := by
  show [Param.predelayMs, .inputLowpassHz, .inputHighpassHz, .diffusion, .decay, .driveDB, .hfDampingHz,
    .lfDampingHz, .mixPercent, .smoothed].Nodup
  decide

/-- The ten writes leave nothing of the registers they find. -/
theorem writeAll_controlWrites (ps : Params) (a b c d e f g h i j : Word) :
    writeAll ps (controlWrites a b c d e f g h i j) =
      { predelayMs := paramClamp .predelayMs a, inputLowpassHz := paramClamp .inputLowpassHz b,
        inputHighpassHz := paramClamp .inputHighpassHz c, diffusion := paramClamp .diffusion d,
        decay := paramClamp .decay e, driveDB := paramClamp .driveDB f,
        hfDampingHz := paramClamp .hfDampingHz g, lfDampingHz := paramClamp .lfDampingHz h,
        mixPercent := paramClamp .mixPercent i, smoothed := decide (j ≠ 0#32) } := by
  simp only [← u32op_ne_zero_iff]
  rfl

/-! ## A sole agent's SET_CONTROL -/

/-- The list of ports where no agent but `n` has one: empty where its port too is as good as unlisted. -/
def solePort (n : Nat) (ag : Agent) : List (Nat × Agent) := sparsePut Agent.fresh [] n ag

theorem solePort_of_ne {n : Nat} {ag : Agent} (h : ag ≠ Agent.fresh) : solePort n ag = [(n, ag)] := if_neg h

theorem sparsePut_singleton (n : Nat) (ag ag' : Agent) :
    sparsePut Agent.fresh [(n, ag)] n ag' = solePort n ag' := by
  have hclear : sparseClear [(n, ag)] n 1 = [] := by simp [sparseClear]
  unfold sparsePut
  rw [hclear]
  rfl

theorem sparsePut_solePort (n : Nat) (ag ag' : Agent) :
    sparsePut Agent.fresh (solePort n ag) n ag' = solePort n ag' := by
  have hclear : sparseClear (solePort n ag) n 1 = [] := by
    unfold solePort sparsePut
    split <;> simp [sparseClear, sparseInsert]
  unfold sparsePut
  rw [hclear]
  rfl

section
variable {s : State} {n : Nat} {ag : Agent} (hsole : s.agents = solePort n ag)
include hsole

theorem agent_of_solePort : s.agent n = ag := by
  rw [State.agent, hsole, solePort, sparseGet_put_same]

/-- The next write of a SET_CONTROL needs no draw where no other agent has work. -/
theorem step_of_solePort (hf : s.faulted = false) {p : Param} {v : Word} {more : List (Param × Word)}
    (hp : ag.pending = (p, v) :: more) :
    step s = .next { s with
      params := setParamValue s.params p v, agents := solePort n { ag with pending := more }, cur := n,
      draws := s.draws + 1 } := by
  have hbegun : ag.pending ≠ [] := by rw [hp]; exact List.cons_ne_nil _ _
  have hlisted : s.agents = [(n, ag)] :=
    hsole.trans (solePort_of_ne fun hfresh => hbegun (congrArg Agent.pending hfresh))
  have hjob : pickJob (Config.agentDraw s.draws) s.jobs = some (n, .resume) := by
    simp [State.jobs, hlisted, hf, agentJob_of_begun hbegun, pickJob]
  have hagent := agent_of_solePort hsole
  unfold step
  rw [hjob]
  show Host.Outcome.next (s.resumeControl n) = _
  rw [resumeControl_state s n (hagent.symm ▸ hp), hagent, hsole, sparsePut_solePort]

end

/-- A run goes on from where its first step leads. -/
theorem run_succ {M : Host.Core} {s t : M.State} (h : M.step s = .next t) (k : Nat) :
    M.run (k + 1) s = M.run k t := by
  rw [Host.Core.run, h]

/-- As many steps as writes are left perform them all, by induction on the writes. -/
theorem run_pending {n : Nat} {ag : Agent} (ws : List (Param × Word)) :
    ∀ s : State, s.faulted = false → s.cur = n → s.agents = solePort n { ag with pending := ws } →
      ∃ t, Host.Core.run core ws.length s = .next t ∧ t = { s with
        params := writeAll s.params ws, agents := solePort n { ag with pending := [] }, draws := t.draws } := by
  induction ws with
  | nil =>
    intro s _ _ hsole
    exact ⟨s, rfl, by rw [← hsole]; rfl⟩
  | cons w ws ih =>
    rintro s hf rfl hsole
    obtain ⟨t, hrun, ht⟩ := ih { s with
      params := setParamValue s.params w.1 w.2, agents := solePort s.cur { ag with pending := ws },
      draws := s.draws + 1 } hf rfl rfl
    exact ⟨t, (run_succ (M := core) (step_of_solePort hsole hf rfl) _).trans hrun, ht⟩

/-- The first step of a sole agent's SET_CONTROL performs one of its ten writes. -/
theorem step_setControl {s : State} {n : Nat} {ag : Agent} {a b c d e f g h i j : Word} {rest : List Word}
    (hsole : s.agents = [(n, ag)]) (hf : s.faulted = false) (hp : ag.pending = [])
    (hdecode : decode ag.queue = .ok (.setControl a b c d e f g h i j) rest) :
    ∃ p v more t, ((p, v) :: more).Perm (controlWrites a b c d e f g h i j) ∧ step s = .next t
      ∧ t = { s with
          params := setParamValue s.params p v,
          agents := solePort n { ag with queue := rest, pending := more }, cur := n, draws := t.draws } := by
  obtain ⟨p, v, more, horder, hperm⟩ :=
    drawOrder_controlWrites (Config.orderDraw (s.take n rest).draws) a b c d e f g h i j
  obtain ⟨hstep, hcur, hagent, -⟩ := stepRunsDecodedCommand s n ag _ rest hsole hf hp hdecode
  have hagents : ((s.take n rest).setAgent n { ag with queue := rest, pending := more }).agents
      = solePort n { ag with queue := rest, pending := more } := by
    rw [State.setAgent_agents, take_state, agent_of_sole hsole, hsole, sparsePut_singleton, sparsePut_solePort]
  rw [exec_setControl (s := s.take n rest) hf, horder, controlStep_cons, hcur, hagent, hagents] at hstep
  exact ⟨p, v, more, _, hperm, hstep, rfl⟩

/-- Settles O30: the first step draws the order and performs the first write, each of the other nine steps the
next one, and the order does not tell in the registers. -/
theorem setControlWritesAllTen : Obligations.SetControlWritesAllTen := by
  intro s ag n a b c d e f g h i j rest hsole hf hp hdecode
  obtain ⟨p, v, more, u, hperm, hstep, hu⟩ := step_setControl hsole hf hp hdecode
  have hnine : more.length = 9 := Nat.succ.inj hperm.length_eq
  obtain ⟨t, hrun, ht⟩ := run_pending (n := n) (ag := { ag with queue := rest }) more u
    (by rw [hu]; exact hf) (by rw [hu]) (by rw [hu])
  rw [hnine] at hrun
  have hkeys : (((p, v) :: more).map Prod.fst).Nodup := (hperm.map Prod.fst).nodup_iff.mpr controlWrites_distinct
  have hparams : t.params = writeAll s.params ((p, v) :: more) := by rw [ht, hu]; rfl
  refine ⟨t, (run_succ (M := core) hstep 9).trans hrun, ?_, ?_, ?_⟩
  · rw [hparams, writeAll_perm hperm hkeys, writeAll_controlWrites]
  · rw [agent_of_solePort (s := t) (by rw [ht]), ← hp]
  · rw [ht, hu]

end Sys2Proof.Control
end

section
/-! Unit-level commands and the parameter registers (47_engine_control.md R1160): a unit's step and its setters
commute with any change of the registers, and so do the legality checks around them. -/

namespace Sys2Proof.RegisterBlind

open Sys2Proof Sys2Proof.Machine Sys2Proof.Encoding

/-- The state with other values in the parameter registers. -/
def withParams (ps : Params) (s : State) : State := { s with params := ps }

/-- The outcome with other values in the parameter registers of a next state. -/
def outcomeWith (ps : Params) : Result → Result
  | .next t => .next (withParams ps t)
  | .fault f => .fault f
  | .refused r => .refused r

section
variable (ps : Params) (s : State)

theorem withParams_faulted : (withParams ps s).faulted = s.faulted := rfl
theorem withParams_ready : (withParams ps s).ready = s.ready := rfl

/-! ## The unit steps -/

/-- Only an allpass and a filter pick their step by the unit's kind; every other step commutes by definition. -/
theorem apReadCell_withParams (k : UnitId) :
    apReadCell k (withParams ps s) = ((apReadCell k s).1, withParams ps (apReadCell k s).2) := by
  unfold apReadCell
  split <;> rfl

theorem apStep_withParams (k : UnitId) (x : F32) :
    apStep k x (withParams ps s) = ((apStep k x s).1, withParams ps (apStep k x s).2) := by
  have hread : apRead k (withParams ps s) = apRead k s := by
    rw [apRead, apReadCell_withParams]; rfl
  have hstored : apStored k x (withParams ps s) = apStored k x s := by
    rw [apStored, hread]; rfl
  have houtput : apOutput k x (withParams ps s) = apOutput k x s := by
    rw [apOutput, hstored, hread]; rfl
  rw [apStep, houtput, hstored, apReadCell_withParams]
  rfl

theorem opStep_withParams (k : UnitId) (x : F32) :
    opStep k x (withParams ps s) = ((opStep k x s).1, withParams ps (opStep k x s).2) := by
  unfold opStep
  split <;> rfl

/-! ## The checks around a body -/

theorem whenStorage_withParams (ok : Bool) (body : Result) :
    whenStorage ok (outcomeWith ps body) = outcomeWith ps (whenStorage ok body) := by
  cases ok <;> rfl

theorem unitCommand_withParams {kinds : List Kind} {k : UnitId} {body body' : Result}
    (hbody : body' = outcomeWith ps body) :
    (withParams ps s).unitCommand kinds k body' = outcomeWith ps (s.unitCommand kinds k body) := by
  subst hbody
  unfold State.unitCommand State.engineCommand
  rw [withParams_faulted, withParams_ready]
  cases s.faulted
  case true => rfl
  cases admits kinds k
  case false => rfl
  cases s.ready <;> rfl

/-- Every unit-level command does the same whatever the registers hold. -/
theorem exec_withParams {i : Instr} (hi : isUnitLevel i = true) :
    exec i (withParams ps s) = outcomeWith ps (exec i s) := by
  cases i
  case dlProcess k x => exact unitCommand_withParams ps s (whenStorage_withParams ps _ (respondWith (dlStep k x s)))
  case apProcess k x =>
    refine unitCommand_withParams ps s ?_
    rw [apStep_withParams]
    exact whenStorage_withParams ps _ (respondWith (apStep k x s))
  case lfoStep k => exact unitCommand_withParams ps s (whenStorage_withParams ps _ (respondWith (lfoStep k s)))
  case dlReset k | apReset k =>
    exact unitCommand_withParams ps s (whenStorage_withParams ps _ (.next (s.clearDelay k)))
  case opProcess k x =>
    refine unitCommand_withParams ps s ?_
    rw [opStep_withParams]
    rfl
  case dlSetDelay | apSetCoef | apSetDelay | apSetDepth | lfoReset | opSetCutoff | opReset | satProcess |
      satSetDrive | dzSmooth | dzSetFactor | dzPreset => exact unitCommand_withParams ps s rfl
  all_goals simp [isUnitLevel, encode] at hi

end

/-- Settles O19: changing the registers before the command or after it comes to the same. -/
theorem unitCommandsIgnoreParameters : Obligations.UnitCommandsIgnoreParameters := by
  intro i s ps hi
  rw [show exec i { s with params := ps } = outcomeWith ps (exec i s) from exec_withParams ps s hi]
  cases exec i s <;> rfl

end Sys2Proof.RegisterBlind
end

section
/-! Rounding and the arithmetic in the order of the values (00_scope.md R20, R21): rounding is monotone, so an
operation with one operand fixed is, and it takes a range to the range between its results at the ends. -/

namespace Sys2Proof.Numerics

open Sys2Proof Sys2Proof.Machine

/-! ## Rounding is monotone -/

theorem RoundsBetween.mono {num num' den c c' r r' : Nat} (hden : 0 < den) (hle : num ≤ num')
    (h : RoundsBetween num den c r) (h' : RoundsBetween num' den c' r') : r ≤ r' := by
  obtain ⟨hlo, hhi, hnear⟩ := h
  obtain ⟨hlo', hhi', hnear'⟩ := h'
  have hmono : StrictMono fun n => magUnits n * den := magUnits_strictMono.mul_const hden
  have hc : c < c' + 1 := hmono.lt_iff_lt.mp (show magUnits c * den < magUnits (c' + 1) * den by omega)
  rcases Nat.lt_or_eq_of_le (Nat.le_of_lt_succ hc) with hlt | rfl <;> omega

theorem roundMag_mono {num num' den : Nat} (hden : 0 < den) (hle : num ≤ num') :
    roundMag num den ≤ roundMag num' den := by
  obtain ⟨c, r, h, hr⟩ := roundMag_eq_min num hden
  obtain ⟨c', r', h', hr'⟩ := roundMag_eq_min num' hden
  rw [hr, hr']
  exact min_le_min_right _ (h.mono hden hle h')

theorem roundMag_zero {den : Nat} (hden : 0 < den) : roundMag 0 den = 0 := by
  simp [roundMag, hden]

/-- The key of `num / den` units rounded to binary32: a negative number's is the negated magnitude. -/
def roundKey (num : Int) (den : Nat) : Int :=
  if num < 0 then -(roundMag num.natAbs den : Int) else (roundMag num.natAbs den : Int)

theorem roundKey_mono {num num' : Int} {den : Nat} (hden : 0 < den) (hle : num ≤ num') :
    roundKey num den ≤ roundKey num' den := by
  unfold roundKey
  split <;> split
  · have := roundMag_mono hden (show num'.natAbs ≤ num.natAbs by omega)
    omega
  · omega
  · omega
  · have := roundMag_mono hden (show num.natAbs ≤ num'.natAbs by omega)
    omega

theorem fIsNaN_fround (s : Bool) (num den : Nat) : fIsNaN (fround s num den) = false := by
  rw [fIsNaN, fmag_fround]
  exact decide_eq_false (Nat.not_lt.mpr (roundMag_le_infMag num den))

/-- A rounded value has the key of its quotient, whatever sign a zero is given. -/
theorem fkey_fround {s : Bool} {num : Int} {den : Nat} (hden : 0 < den) (hs : num ≠ 0 → s = decide (num < 0)) :
    fkey (fround s num.natAbs den) = roundKey num den := by
  rw [fkey, fsign_fround, fmag_fround, roundKey]
  by_cases hz : num = 0
  · subst hz
    rw [Int.natAbs_zero, roundMag_zero hden]
    cases s <;> rfl
  · simp only [hs hz, decide_eq_true_eq]

/-! ## The keys of the results -/

/-- The sign of a value that is not zero. -/
theorem fsign_eq_decide_of_units {a : F32} (h : fUnits a ≠ 0) : fsign a = decide (fUnits a < 0) := by
  unfold fUnits at *
  cases hs : fsign a <;> simp only [hs, if_true, Bool.false_eq_true, if_false] at h ⊢
  · exact (decide_eq_false (by omega)).symm
  · exact (decide_eq_true (by omega)).symm

/-- A sum of finite values is the exact sum rounded, and no NaN. -/
theorem fkey_fadd {a b : F32} (q : F32) (ha : fIsFinite a = true) (hb : fIsFinite b = true) :
    fIsNaN (fadd q a b) = false ∧ fkey (fadd q a b) = roundKey (fUnits a + fUnits b) 1 := by
  rw [fadd_of_finite q ha hb]
  split
  case isTrue h =>
    rw [h]
    cases fsign a && fsign b <;> exact ⟨rfl, rfl⟩
  case isFalse => exact ⟨fIsNaN_fround _ _ _, fkey_fround Nat.one_pos fun _ => rfl⟩

section
variable {a b : F32} (q : F32) (ha : fIsFinite a = true) (hb : positiveFinite b = true)
include hb

theorem finite_of_positiveFinite : fIsFinite b = true := (Bool.and_eq_true_iff.mp hb).1

theorem fUnits_pos : 0 < fUnits b := by
  obtain ⟨hunits, hpos⟩ := fUnits_of_positiveFinite hb
  omega

theorem fsign_of_positiveFinite : fsign b = false := by
  have hpos := fUnits_pos hb
  rw [fsign_eq_decide_of_units hpos.ne', decide_eq_false (by omega)]

theorem fmag_ne_zero_of_positiveFinite : fmag b ≠ 0 := fun hz => by
  obtain ⟨-, hpos⟩ := fUnits_of_positiveFinite hb
  rw [hz] at hpos
  exact lt_irrefl 0 hpos

/-- A positive divisor or factor leaves the other operand's sign to the result. -/
theorem fsign_bne_of_positive {u : Int} (hu : 0 < u) (h : fUnits a * u ≠ 0) :
    (fsign a != fsign b) = decide (fUnits a * u < 0) := by
  have ha : fUnits a ≠ 0 := fun hz => h (by rw [hz, Int.zero_mul])
  rw [fsign_of_positiveFinite hb, Bool.bne_false, fsign_eq_decide_of_units ha, decide_eq_decide]
  exact ⟨fun hneg => Int.mul_neg_of_neg_of_pos hneg hu, fun hneg => neg_of_mul_neg_left hneg hu.le⟩

include ha

/-- A product with a positive factor is the exact product rounded, and no NaN. -/
theorem fkey_fmul_positive :
    fIsNaN (fmul q a b) = false ∧ fkey (fmul q a b) = roundKey (fUnits a * fUnits b) (2 ^ 149) := by
  have hpos := fUnits_pos hb
  rw [fmul_of_finite q ha (finite_of_positiveFinite hb), ← Int.natAbs_mul]
  exact ⟨fIsNaN_fround _ _ _, fkey_fround (by positivity) (fsign_bne_of_positive hb hpos)⟩

/-- A quotient by a positive divisor is the exact quotient rounded, and no NaN. -/
theorem fkey_fdiv_positive :
    fIsNaN (fdiv q a b) = false ∧ fkey (fdiv q a b) = roundKey (fUnits a * 2 ^ 149) (fUnits b).natAbs := by
  have hpos := fUnits_pos hb
  have hnum : (fUnits a).natAbs * 2 ^ 149 = (fUnits a * 2 ^ 149).natAbs := by
    rw [Int.natAbs_mul, Int.natAbs_pow]; rfl
  rw [fdiv_of_finite q ha (finite_of_positiveFinite hb), if_neg (fmag_ne_zero_of_positiveFinite hb), hnum]
  exact ⟨fIsNaN_fround _ _ _, fkey_fround (by omega) (fsign_bne_of_positive hb (by positivity))⟩

end

/-! ## Ranges -/

/-- A range in terms of the keys that order the patterns. -/
theorem inRange_iff {lo hi v : F32} (hlo : fIsNaN lo = false) (hhi : fIsNaN hi = false) :
    inRange lo hi v = true ↔ fIsNaN v = false ∧ fkey lo ≤ fkey v ∧ fkey v ≤ fkey hi := by
  simp only [inRange, fle, hlo, hhi, Bool.not_false, Bool.true_and, Bool.and_true, Bool.and_eq_true,
    Bool.not_eq_true', decide_eq_true_eq]
  tauto

theorem finite_iff_fkey {a : F32} : fIsFinite a = true ↔ -(infMag : Int) < fkey a ∧ fkey a < infMag := by
  rw [fIsFinite, decide_eq_true_eq, fkey]
  split <;> omega

/-- Between finite bounds lie finite values only. -/
theorem finite_of_inRange {lo hi v : F32} (hlo : fIsFinite lo = true) (hhi : fIsFinite hi = true)
    (h : inRange lo hi v = true) : fIsFinite v = true := by
  obtain ⟨-, hle, hge⟩ := (inRange_iff (not_nan_of_finite hlo) (not_nan_of_finite hhi)).mp h
  rw [finite_iff_fkey] at *
  omega

/-- An operation that is monotone on finite operands, and never a NaN there. -/
structure MonotoneOp (f : F32 → F32) : Prop where
  not_nan : ∀ {a}, fIsFinite a = true → fIsNaN (f a) = false
  mono : ∀ {a b}, fIsFinite a = true → fIsFinite b = true → fUnits a ≤ fUnits b → fkey (f a) ≤ fkey (f b)

/-- A monotone operation takes a range to the range between its results at the ends. -/
theorem MonotoneOp.inRange {f : F32 → F32} (hf : MonotoneOp f) {lo hi lo' hi' v : F32}
    (hlo : fIsFinite lo = true) (hhi : fIsFinite hi = true) (hlo' : f lo = lo') (hhi' : f hi = hi')
    (h : inRange lo hi v = true) : inRange lo' hi' (f v) = true := by
  subst hlo' hhi'
  have hv := finite_of_inRange hlo hhi h
  obtain ⟨-, hle, hge⟩ := (inRange_iff (not_nan_of_finite hlo) (not_nan_of_finite hhi)).mp h
  exact (inRange_iff (hf.not_nan hlo) (hf.not_nan hhi)).mpr ⟨hf.not_nan hv,
    hf.mono hlo hv ((fkey_le_iff _ _).mp hle), hf.mono hv hhi ((fkey_le_iff _ _).mp hge)⟩

theorem monotoneOp_fadd_left (q : F32) {b : F32} (hb : fIsFinite b = true) : MonotoneOp (fun a => fadd q a b) where
  not_nan ha := (fkey_fadd q ha hb).1
  mono ha ha' hle := by
    rw [(fkey_fadd q ha hb).2, (fkey_fadd q ha' hb).2]
    exact roundKey_mono Nat.one_pos (by omega)

theorem monotoneOp_fadd_right (q : F32) {b : F32} (hb : fIsFinite b = true) : MonotoneOp (fun a => fadd q b a) where
  not_nan ha := (fkey_fadd q hb ha).1
  mono ha ha' hle := by
    rw [(fkey_fadd q hb ha).2, (fkey_fadd q hb ha').2]
    exact roundKey_mono Nat.one_pos (by omega)

theorem monotoneOp_fsub_left (q : F32) {b : F32} (hb : fIsFinite b = true) : MonotoneOp (fun a => fsub q a b) :=
  monotoneOp_fadd_left q (by rwa [fIsFinite, fmag_fneg])

theorem monotoneOp_fdiv_left (q : F32) {b : F32} (hb : positiveFinite b = true) :
    MonotoneOp (fun a => fdiv q a b) where
  not_nan ha := (fkey_fdiv_positive q ha hb).1
  mono ha ha' hle := by
    have hpos := fUnits_pos hb
    rw [(fkey_fdiv_positive q ha hb).2, (fkey_fdiv_positive q ha' hb).2]
    exact roundKey_mono (by omega) (by omega)

/-! ## From zero to infinity -/

/-- Where a result is no NaN and has the key of a nonnegative quotient, it is in [0, +∞]. -/
theorem inRange_of_roundKey {v : F32} {num : Int} {den : Nat} (hnum : 0 ≤ num)
    (h : fIsNaN v = false ∧ fkey v = roundKey num den) : inRange f0 0x7F800000#32 v = true := by
  obtain ⟨hnan, hkey⟩ := h
  obtain ⟨-, hhi, -, -⟩ := fkey_bounds hnan
  rw [roundKey, if_neg (by omega)] at hkey
  have hzero : fkey f0 = 0 := rfl
  exact (inRange_iff rfl rfl).mpr ⟨hnan, by omega, hhi⟩

/-- A value of [0, +∞] is +∞ or is finite and not below zero. -/
theorem eq_inf_or_finite {v : F32} (h : inRange f0 0x7F800000#32 v = true) :
    v = 0x7F800000#32 ∨ fIsFinite v = true ∧ 0 ≤ fUnits v := by
  obtain ⟨hnan, hlo, hhi⟩ := (inRange_iff rfl rfl).mp h
  obtain ⟨-, -, htop, -⟩ := fkey_bounds hnan
  rcases eq_or_ne (fkey v) infMag with heq | hne
  · exact .inl (htop.mp heq)
  · have hzero : fkey f0 = 0 := rfl
    have hbound : (0 : Int) < infMag := by decide
    rw [fkey_posInf] at hhi
    exact .inr ⟨finite_iff_fkey.mpr (by omega), (fkey_le_iff f0 v).mp hlo⟩

section
variable {a b : F32} (q : F32) (ha : inRange f0 0x7F800000#32 a = true) (hb : positiveFinite b = true)
include ha hb

theorem fmul_nonneg : inRange f0 0x7F800000#32 (fmul q a b) = true := by
  rcases eq_inf_or_finite ha with rfl | ⟨hfin, hunits⟩
  · rw [(fmul_of_inf_finite q rfl (finite_of_positiveFinite hb)).1,
      if_neg (fmag_ne_zero_of_positiveFinite hb), fsign_of_positiveFinite hb]
    rfl
  · exact inRange_of_roundKey (Int.mul_nonneg hunits (fUnits_pos hb).le) (fkey_fmul_positive q hfin hb)

theorem fdiv_nonneg : inRange f0 0x7F800000#32 (fdiv q a b) = true := by
  rcases eq_inf_or_finite ha with rfl | ⟨hfin, hunits⟩
  · rw [(fdiv_of_inf_finite q rfl (finite_of_positiveFinite hb)).1,
      fsign_of_positiveFinite hb]
    rfl
  · exact inRange_of_roundKey (Int.mul_nonneg hunits (by positivity)) (fkey_fdiv_positive q hfin hb)

end

end Sys2Proof.Numerics
end

section
/-! The targets and the predelay (47_engine_control.md R1130 to R1140): the ranges of the targets, the predelay's
quotient, and its floor. -/

namespace Sys2Proof.Targets

open Sys2Proof Sys2Proof.Machine Sys2Proof.Numerics

/-! ## The expressions -/

/-- The NaNs the targets draw, numbered as in the statement: there each `expF` comes before its cutoff's
quotient and product, in the model after them. -/
def targetNaNs (s : State) (i : Nat) : F32 :=
  s.nan (if i < 5 then i else if i % 3 = 2 then i + 2 else i - 1)

theorem targetNaNs_supply (s : State) : NaNSupply (targetNaNs s) := fun _ => fIsNaN_nan s _

/-- Settles O31: each target is its row's expression, with the NaN results drawn from the state. -/
theorem targetFormulas : Obligations.TargetFormulas := fun s =>
  ⟨targetNaNs s, targetNaNs_supply s, rfl, rfl, rfl, rfl, rfl, rfl, rfl, rfl, rfl, rfl⟩

/-! ## The ranges (R1132) -/

/-- The smaller of a value and a bound is in the value's range, cut at the bound. -/
theorem fmin_inRange {lo hi v m : F32} (h : inRange lo hi v = true) (hm : fle lo m = true) :
    inRange lo m (fmin v m) = true := by
  have hmm : fle m m = true := by
    simp only [fle, Bool.and_eq_true, Bool.not_eq_true'] at hm ⊢
    obtain ⟨⟨-, hnan⟩, -⟩ := hm
    exact ⟨⟨hnan, hnan⟩, decide_eq_true (le_refl _)⟩
  obtain ⟨hlo, -⟩ := Bool.and_eq_true_iff.mp h
  unfold inRange fmin
  split
  case isTrue hle => rw [hlo, hle]; rfl
  case isFalse => rw [hm, hmm]; rfl

/-- T1: 0.625 plus a sixth of the diffusion less 0.5 (R1130). -/
theorem alpha2Target_inRange {s : State} (h : inRange f0 f1 s.params.diffusion = true) :
    inRange 0x3F0AAAAB#32 0x3F355555#32 (alpha2Target s) = true := by
  have hcentred : inRange 0xBF000000#32 0x3F000000#32 (fsub (s.nan 2) s.params.diffusion f0p5) = true :=
    (monotoneOp_fsub_left (s.nan 2) (b := f0p5) rfl).inRange (lo := f0) (hi := f1) rfl rfl rfl rfl h
  have hsixth : inRange 0xBDAAAAAB#32 0x3DAAAAAB#32
      (fdiv (s.nan 1) (fsub (s.nan 2) s.params.diffusion f0p5) f6) = true :=
    (monotoneOp_fdiv_left (s.nan 1) (b := f6) rfl).inRange rfl rfl rfl rfl hcentred
  exact (monotoneOp_fadd_right (s.nan 0) (b := f0p625) rfl).inRange rfl rfl rfl rfl hsixth

/-- Settles O32: the clamps and minima by their bounds, T1 and T4 by what rounding gives at the ends of the
registers' ranges. -/
theorem targetRanges : Obligations.TargetRanges := by
  intro s hs hmax
  have hdiffusion : inRange f0 f1 s.params.diffusion = true := hs .diffusion (by decide)
  have hdecay : inRange f0 f1 s.params.decay = true := hs .decay (by decide)
  have hmix : inRange f0 f100 s.params.mixPercent = true := hs .mixPercent (by decide)
  have hdrive : inRange f0 Config.driveMaxDb s.params.driveDB = true := hs .driveDB (by decide)
  refine ⟨fmin_inRange hdiffusion rfl, alpha2Target_inRange hdiffusion, ?_, ?_, ?_, hdrive⟩
  · exact Bool.and_eq_true_iff.mpr (fclamp_inRange _ f0p15 f0p5 rfl)
  · show inRange _ _ (fmin s.params.decay s.cfg.decayMax) = true
    rw [hmax]
    exact fmin_inRange hdecay rfl
  · exact (monotoneOp_fdiv_left (s.nan 4) (b := f100) rfl).inRange (lo := f0) (hi := f100) rfl rfl rfl rfl hmix

/-! ## The predelay (R1140) -/

theorem fs_positiveFinite {c : Cfg} (h : c.wf = true) : positiveFinite c.fs = true := by
  simp only [Cfg.wf, Bool.and_eq_true] at h
  obtain ⟨⟨⟨⟨⟨⟨⟨⟨⟨⟨⟨⟨hfs, _⟩, _⟩, _⟩, _⟩, _⟩, _⟩, _⟩, _⟩, _⟩, _⟩, _⟩, _⟩ := h
  exact hfs

/-- The quotient of R1140 has a floor or is infinite. -/
theorem predelayQuotient_inRange {s : State} (hc : s.cfg.wf = true) (hs : s.params.InRange) :
    inRange f0 0x7F800000#32 (predelayQuotient s) = true :=
  fdiv_nonneg _ (fmul_nonneg _ (hs .predelayMs (by decide)) (fs_positiveFinite hc)) rfl

/-- The NaNs of the predelay's quotient, numbered as in the statement. -/
def predelayNaNs (s : State) (i : Nat) : F32 := s.nan (17 + i)

/-- Settles O33: the quotient is no NaN and not below zero, so the model's free length is not drawn. -/
theorem predelayLengthIsTheFloor : Obligations.PredelayLengthIsTheFloor := by
  intro s hc hs
  obtain ⟨hnan, hzero, -⟩ := (inRange_iff rfl rfl).mp (predelayQuotient_inRange hc hs)
  have hnonneg : flt (predelayQuotient s) f0 = false := by
    rw [← Bool.not_eq_true, flt_iff hnan rfl]
    exact not_lt.mpr hzero
  refine ⟨predelayNaNs s, fun _ => fIsNaN_nan s _, hnan, hnonneg, ?_⟩
  rw [predelayLen, hnan, hnonneg]
  rfl

end Sys2Proof.Targets
end

section
/-! The dry/wet blend at its ends (48_engine_process.md R1270, R1271): a product with 1 and a sum with a zero
give the other operand back, so one term of the blend vanishes and the other stays. -/

namespace Sys2Proof.Blend

open Sys2Proof Sys2Proof.Machine Sys2Proof.Numerics

/-! ## Exact results -/

/-- An exact value that some finite pattern has is rounded to that pattern (R20). -/
theorem roundMag_exact {m den : Nat} (hm : m < infMag) (hden : 0 < den) :
    roundMag (magUnits m * den) den = m := by
  obtain ⟨c, r, hr, hround⟩ := roundMag_eq_min (magUnits m * den) hden
  by_cases hmr : m = r
  · rw [hround, ← hmr, Nat.min_eq_left hm.le]
  · -- another pattern as near as `m` itself would have the same value
    obtain ⟨hle, -⟩ := hr.nearest hden hmr
    have heq : magUnits r * den = magUnits m * den := by push_cast at hle; omega
    have hval : magUnits r = magUnits m := Nat.eq_of_mul_eq_mul_right hden heq
    exact absurd (magUnits_strictMono.injective hval).symm hmr

theorem finite_or_inf {a : F32} (h : fIsNaN a = false) : fIsFinite a = true ∨ fmag a = infMag := by
  simp only [fIsNaN, fIsFinite, decide_eq_false_iff_not, decide_eq_true_eq] at *
  omega

theorem finite_of_fmag_zero {a : F32} (h : fmag a = 0) : fIsFinite a = true := by
  rw [fIsFinite, h]
  rfl

theorem nan_or_inf {a : F32} (h : fIsFinite a = false) : fIsNaN a = true ∨ fmag a = infMag := by
  simp only [fIsNaN, fIsFinite, decide_eq_false_iff_not, decide_eq_true_eq] at *
  omega

theorem fmag_lt_of_finite {a : F32} (h : fIsFinite a = true) : fmag a < infMag := of_decide_eq_true h

theorem fUnits_of_fmag_zero {a : F32} (h : fmag a = 0) : fUnits a = 0 := by
  have habs := natAbs_fUnits a
  rw [h, magUnits_zero] at habs
  omega

theorem fUnits_ne_zero {a : F32} (h : fmag a ≠ 0) : fUnits a ≠ 0 := fun hz => by
  have habs := natAbs_fUnits a
  rw [hz] at habs
  have hpos := magUnits_strictMono (Nat.pos_of_ne_zero h)
  rw [magUnits_zero] at hpos
  omega

theorem fmul_one (q : F32) {a : F32} (ha : fIsNaN a = false) : fmul q a 0x3F800000#32 = a := by
  have hsign : fsign 0x3F800000#32 = false := rfl
  have hunits : (fUnits 0x3F800000#32).natAbs = 2 ^ 149 := rfl
  rcases finite_or_inf ha with hfin | hinf
  · rw [fmul_of_finite q hfin rfl]
    refine eq_of_sign_mag ?_ ?_
    · rw [fsign_fround, hsign, Bool.bne_false]
    · rw [fmag_fround, hunits, natAbs_fUnits, roundMag_exact (fmag_lt_of_finite hfin) (by positivity)]
  · rw [(fmul_of_inf_finite q hinf rfl).1, if_neg (by decide)]
    refine eq_of_sign_mag ?_ ?_
    · rw [fsign_fpack_infMag, hsign, Bool.bne_false]
    · rw [fmag_fpack_infMag, hinf]

theorem fmag_fmul_zero (q : F32) {a : F32} (ha : fIsFinite a = true) : fmag (fmul q a 0#32) = 0 := by
  have hunits : (fUnits 0#32).natAbs = 0 := rfl
  rw [fmul_of_finite q ha rfl, fmag_fround, hunits, Nat.mul_zero, roundMag_zero (by positivity)]

/-- A NaN or an infinity times zero is a NaN (R22). -/
theorem fmul_zero_of_not_finite (q : F32) {a : F32} (ha : fIsFinite a = false) : fmul q a 0#32 = q := by
  rcases nan_or_inf ha with hnan | hinf
  · obtain ⟨-, -, hmul, -⟩ := arith_of_nan q (b := 0#32) (.inl hnan)
    exact hmul
  · exact (fmul_of_inf_finite q hinf rfl).1.trans (if_pos rfl)

/-- A zero of either sign added on either side changes no value but a zero. -/
theorem fadd_zero (q : F32) {a z : F32} (ha : fIsNaN a = false) (hne : fmag a ≠ 0) (hz : fmag z = 0) :
    fadd q a z = a ∧ fadd q z a = a := by
  have hzfin := finite_of_fmag_zero hz
  rcases finite_or_inf ha with hfin | hinf
  · have hround : fround (decide (fUnits a < 0)) (fUnits a).natAbs 1 = a := by
      refine eq_of_sign_mag ?_ ?_
      · rw [fsign_fround, fsign_eq_decide_of_units (fUnits_ne_zero hne)]
      · have hexact := roundMag_exact (fmag_lt_of_finite hfin) Nat.one_pos
        rw [Nat.mul_one] at hexact
        rw [fmag_fround, natAbs_fUnits, hexact]
    rw [fadd_of_finite q hfin hzfin, fadd_of_finite q hzfin hfin, fUnits_of_fmag_zero hz, Int.add_zero,
      Int.zero_add, if_neg (fUnits_ne_zero hne), if_neg (fUnits_ne_zero hne)]
    exact ⟨hround, hround⟩
  · exact fadd_of_inf_finite q hinf hzfin

theorem fadd_zeros (q : F32) {y z : F32} (hy : fmag y = 0) (hz : fmag z = 0) :
    fadd q y z = fpack (fsign y && fsign z) 0 := by
  rw [fadd_of_finite q (finite_of_fmag_zero hy) (finite_of_fmag_zero hz), fUnits_of_fmag_zero hy,
    fUnits_of_fmag_zero hz, if_pos (Int.add_zero 0)]

/-! ## The blend -/

/-- At mix 0 the dry weight is 1, at mix 1 it is +0. -/
theorem dryWeight (q : F32) : fsub q f1 0#32 = 0x3F800000#32 ∧ fsub q f1 0x3F800000#32 = 0#32 := ⟨rfl, rfl⟩

/-- At mix 0 the blend is the dry term plus the wet value times zero. -/
theorem blend_dry (q : Nat → F32) {x : F32} (w : F32) (hx : fIsNaN x = false) :
    blend q x w 0#32 = fadd (q 0) x (fmul (q 3) w 0#32) := by
  rw [blend, (dryWeight _).1, fmul_one _ hx]

/-- At mix 1 it is the dry input times zero plus the wet value. -/
theorem blend_wet (q : Nat → F32) (x : F32) {w : F32} (hw : fIsNaN w = false) :
    blend q x w 0x3F800000#32 = fadd (q 0) (fmul (q 1) x 0#32) w := by
  rw [blend, (dryWeight _).2, fmul_one _ hw]

/-- A NaN in either term makes the blend a NaN. -/
theorem blend_nan {q : Nat → F32} (hq : NaNSupply q) {x w m : F32}
    (h : fIsNaN (fmul (q 1) x (fsub (q 2) f1 m)) = true ∨ fIsNaN (fmul (q 3) w m) = true) :
    fIsNaN (blend q x w m) = true := by
  rw [blend, (arith_of_nan (q 0) h).1]
  exact hq 0

theorem fmul_nan {q a : F32} (b : F32) (hq : fIsNaN q = true) (ha : fIsNaN a = true) :
    fIsNaN (fmul q a b) = true := by
  obtain ⟨-, -, hmul, -⟩ := arith_of_nan q (b := b) (.inl ha)
  rwa [hmul]

/-- Settles O41: at each end one term is its operand and the other a zero, or a NaN where the operand is not
finite. -/
theorem blendAtTheEnds : Obligations.BlendAtTheEnds := by
  intro q x w hq
  refine ⟨fun hx hne hw => ?_, fun hx hw => ?_, fun hx hw => ?_, fun h => ?_, fun hx hw hne => ?_,
    fun hx hw => ?_, fun h => ?_⟩
  · rw [blend_dry q w hx]
    exact (fadd_zero _ hx hne (fmag_fmul_zero _ hw)).1
  · rw [blend_dry q w (not_nan_of_finite (finite_of_fmag_zero hx)), fadd_zeros _ hx (fmag_fmul_zero _ hw)]
    exact fmag_fpack_zero _
  · subst hx
    rw [blend_dry q w rfl, fadd_zeros _ rfl (fmag_fmul_zero _ hw)]
    rfl
  · refine blend_nan hq (h.imp (fmul_nan _ (hq 1)) fun hw => ?_)
    rw [fmul_zero_of_not_finite _ hw]
    exact hq 3
  · rw [blend_wet q x hw]
    exact (fadd_zero _ hw hne (fmag_fmul_zero _ hx)).2
  · rw [blend_wet q x (not_nan_of_finite (finite_of_fmag_zero hw)), fadd_zeros _ (fmag_fmul_zero _ hx) hw]
    exact fmag_fpack_zero _
  · refine blend_nan hq (h.imp (fun hx => ?_) (fmul_nan _ (hq 3)))
    rw [(dryWeight _).2, fmul_zero_of_not_finite _ hx]
    exact hq 1

end Sys2Proof.Blend
end

section
/-! How an instruction ends (49_lifecycle.md R1301, R1340; 60_exceptions.md R1605, R1625, R1630): it completes with
the flag change of its row, it is not accepted, or it is one of the two that can fail after being accepted. -/

namespace Sys2Proof.Lifecycle

open Sys2Proof Sys2Proof.Machine Sys2Proof.Keeping Sys2Proof.Responses

/-! ## The legality table (R1301) -/

theorem engineCommand_raises {s : State} {legal : Bool} (body : Result) (hf : s.faulted = false)
    (hl : legal = false) : s.engineCommand legal body = .next (s.raise .lifecycle) := by
  simp [State.engineCommand, hf, hl]

theorem unitCommand_raises {s : State} {kinds : List Kind} {k : UnitId} (body : Result)
    (hf : s.faulted = false) (hk : admits kinds k = true) (hr : s.ready = false) :
    s.unitCommand kinds k body = .next (s.raise .lifecycle) := by
  simp [State.unitCommand, State.engineCommand, hf, hk, hr]

/-- Settles O14: an engine-level command checks its condition first; a unit-level one checks the unit's kind,
which is right in a well-formed command, and then READY. -/
theorem illegalLifecycleRaisesLifecycle : Obligations.IllegalLifecycleRaisesLifecycle := by
  intro i s hwf hf hl
  cases i
  case readStatus | setParam | setControl | readParam => cases hl
  case arenaReserve | arenaCarve | engineCreate | engineInit | engineReset | processMono | processStereo =>
    exact engineCommand_raises _ hf hl
  all_goals exact unitCommand_raises _ hf hwf hl

/-! ## Flags -/

/-- RESERVED, CREATED and READY. -/
def lifecycleFlags (s : State) : Bool × Bool × Bool := (s.reserved, s.created, s.ready)

/-- What a command that completes leaves of them (R1340). -/
def flagsAfter (i : Instr) (s : State) : Bool × Bool × Bool :=
  match i with
  | .arenaReserve _ => (true, s.created, s.ready)
  | .engineCreate => (s.reserved, true, s.ready)
  | .engineInit => (s.reserved, s.created, true)
  | _ => (s.reserved, s.created, s.ready)

/-- What ENGINE_INIT's carves may change: the carved offset and the places of the buffers (R1310, R1630). -/
structure OnlyPlaces (s u : State) : Prop where
  rest : u = { s with arena := { s.arena with off := u.arena.off }, delays := u.delays }
  delay : ∀ k, u.delay k = { s.delay k with base := (u.delay k).base }

theorem OnlyPlaces.carveOne {s u : State} (h : OnlyPlaces s u) (k : UnitId) :
    OnlyPlaces s (carveOne u k) where
  rest := by rw [h.rest]; rfl
  delay j := setDelay_of (t := { u with arena := { u.arena with off := u.arena.off + 4 * u.cfg.maxLenOf k } })
    (fun x => x = { s.delay j with base := x.base }) (h.delay j) fun hjk => by
      subst hjk
      show ({ u.delay j with base := u.arena.off } : Delay) = { s.delay j with base := u.arena.off }
      rw [h.delay j]

theorem OnlyPlaces.carve (s : State) (ks : List UnitId) : OnlyPlaces s (s.carve ks).2 :=
  carve_induction (fun _ k hu _ => hu.carveOne k) ks s ⟨rfl, fun _ => rfl⟩

/-- The faults of ENGINE_INIT (R1310, R1601). -/
def InitFault (c : FaultCode) : Prop := c = .delayCapacity ∨ c = .lfoConfig ∨ c = .arenaOverflow

theorem InitFault.ne_none {c : FaultCode} (h : InitFault c) : c ≠ .none := by
  rcases h with rfl | rfl | rfl <;> decide

/-! ## How an instruction ends -/

/-- The ways in which an instruction gives a next state. -/
inductive Ended (i : Instr) (s : State) : State → Prop
  | completed {t} (hfaulted : t.faulted = s.faulted) (hflags : lifecycleFlags t = flagsAfter i s) : Ended i s t
  | unaccepted {c} (hf : s.faulted = false) (hc : c ≠ .none)
      (hbad : ¬ (wellFormed i = true ∧ lifecycleLegal s i = true)) : Ended i s (s.raise c)
  | carveFailed {b} (hf : s.faulted = false) (hi : i = .arenaCarve b) : Ended i s (s.raise .arenaOverflow)
  | initFailed {u c} (hf : s.faulted = false) (hi : i = .engineInit) (hc : InitFault c)
      (hplaces : OnlyPlaces s u) : Ended i s (u.raise c)

/-- A result whose next state, if it is one, ends the instruction. -/
def Ends (i : Instr) (s : State) (r : Result) : Prop := ∀ t, r = .next t → Ended i s t

/-- The flags a command that completes leaves alone, FAULTED among them. -/
structure SameFlags (s t : State) : Prop where
  faulted : t.faulted = s.faulted := by rfl
  reserved : t.reserved = s.reserved := by rfl
  created : t.created = s.created := by rfl
  ready : t.ready = s.ready := by rfl

section
variable {i : Instr} {s t : State} {legal ok : Bool} {kinds : List Kind} {k : UnitId} {body : Result}

theorem Ends.next (h : Ended i s t) : Ends i s (.next t) := fun _ hu => by cases hu; exact h

theorem Ends.whenStorage (h : Ends i s body) : Ends i s (whenStorage ok body) :=
  fun t ht => h t (whenStorage_next.mp ht).2

theorem Ends.engineCommand (hlegal : lifecycleLegal s i = legal)
    (h : s.faulted = false → legal = true → Ends i s body) : Ends i s (s.engineCommand legal body) := fun t ht => by
  obtain ⟨hf, ⟨hl, hbody⟩ | ⟨hl, rfl⟩⟩ := engineCommand_next.mp ht
  · exact h hf hl t hbody
  · exact .unaccepted hf (by decide) fun hgood => ne_true_of_eq_false hl (hlegal ▸ hgood.2)

theorem Ends.unitCommand (hwf : wellFormed i = admits kinds k) (hlegal : lifecycleLegal s i = s.ready)
    (h : s.ready = true → Ends i s body) : Ends i s (s.unitCommand kinds k body) := fun t ht => by
  obtain ⟨hf, ⟨hk, rfl⟩ | ⟨hk, ⟨hr, hbody⟩ | ⟨hr, rfl⟩⟩⟩ := unitCommand_next.mp ht
  · exact .unaccepted hf (by decide) fun hgood => ne_true_of_eq_false hk (hwf ▸ hgood.1)
  · exact h hr t hbody
  · exact .unaccepted hf (by decide) fun hgood => ne_true_of_eq_false hr (hlegal ▸ hgood.2)

/-- A command whose row changes no flag. -/
theorem Ended.keeping (hi : flagsAfter i s = lifecycleFlags s) (h : SameFlags s t) : Ended i s t := by
  refine .completed h.faulted ?_
  rw [hi, lifecycleFlags, h.reserved, h.created, h.ready, ← lifecycleFlags]

theorem SameFlags.respond (h : SameFlags s t) (v : Word) : SameFlags s (t.respond v) :=
  ⟨h.faulted, h.reserved, h.created, h.ready⟩

/-- What evolves the block changes none of the three, and what leaves the ports alone not FAULTED. -/
theorem sameFlags_of_evolves (h : Evolves s t) (hf : t.faulted = s.faulted) : SameFlags s t :=
  ⟨hf, h.setup.reserved, h.setup.created, h.setup.ready⟩

end

/-- ENGINE_INIT completes with READY set, or fails at a check or at a carve (R1310). -/
theorem engineInit_ends (s : State) : Ends .engineInit s (exec .engineInit s) := by
  refine .engineCommand rfl fun hf hl => ?_
  simp only [Bool.and_eq_true, Bool.not_eq_true'] at hl
  obtain ⟨-, hr⟩ := hl
  have hnone : OnlyPlaces s s := ⟨rfl, fun _ => rfl⟩
  split
  case isFalse => exact .next (.initFailed hf rfl (.inl rfl) hnone)
  split
  case isFalse => exact .next (.initFailed hf rfl (.inr (.inl rfl)) hnone)
  have hplaces := OnlyPlaces.carve s delayUnits
  have hready := carve_ready s delayUnits
  have hbuild := carve_build s delayUnits
  have hports : SamePorts s (s.carve delayUnits).2 := SamePorts.carve {} delayUnits
  split
  case h_1 u hu =>
    rw [hu] at hready hbuild hports
    have hbuilt := hbuild.trans (setUp_build (hready.trans hr))
    refine .whenStorage (.next (.completed hports.setUp.faulted ?_))
    rw [lifecycleFlags, hbuilt.reserved, hbuilt.created]
    rfl
  case h_2 u hu =>
    rw [hu] at hplaces
    exact .next (.initFailed hf rfl (.inr (.inr rfl)) hplaces)

/-- Every instruction that gives a next state ends in one of these ways. -/
theorem exec_ends (i : Instr) (s : State) : Ends i s (exec i s) := by
  have hrefl := Evolves.refl s
  have hports : SamePorts s s := {}
  cases i with
  | arenaReserve cap => exact .engineCommand rfl fun _ _ => .next (.completed rfl rfl)
  | arenaCarve b =>
    refine .engineCommand rfl fun hf _ => ?_
    split
    · exact .next (.carveFailed hf rfl)
    · exact .next (.keeping rfl {})
  | engineCreate =>
    refine .engineCommand rfl fun _ _ => .next (.completed hports.create.faulted ?_)
    rw [create_state]
    rfl
  | engineInit => exact engineInit_ends s
  | engineReset =>
    exact .engineCommand rfl fun _ _ => .whenStorage (.next (.keeping rfl
      (sameFlags_of_evolves hrefl.clearSignal.tick hports.clearSignal.tick.faulted)))
  | readStatus => exact .next (.keeping rfl {})
  | setParam p v => exact .engineCommand rfl fun _ _ => .next (.keeping rfl {})
  | setControl =>
    refine .engineCommand rfl fun _ _ => .next (.keeping rfl ?_)
    rw [controlStep_state]
    exact {}
  | readParam p => exact .engineCommand rfl fun _ _ => .next (.keeping rfl {})
  | processMono x =>
    exact .engineCommand rfl fun _ hr => .whenStorage (.next (.keeping rfl
      ((sameFlags_of_evolves (hrefl.engSample hr).tick hports.engSample.tick.faulted).respond _)))
  | processStereo xL xR =>
    exact .engineCommand rfl fun _ hr => .whenStorage (.next (.keeping rfl
      (((sameFlags_of_evolves (hrefl.tick.engSample hr).tick.tick
        hports.tick.engSample.tick.tick.faulted).respond _).respond _)))
  | apProcess k x =>
    refine .unitCommand rfl rfl fun _ => .whenStorage (.next (.keeping rfl ?_))
    rw [apStep_state]
    exact {}
  | opProcess k x =>
    refine .unitCommand rfl rfl fun _ => .next (.keeping rfl ?_)
    rw [opStep_state]
    exact {}
  | dlProcess | dlReset | apReset | lfoStep =>
    exact .unitCommand rfl rfl fun _ => .whenStorage (.next (.keeping rfl {}))
  | _ => exact .unitCommand rfl rfl fun _ => .next (.keeping rfl {})

/-- Settles O16: the flags are read off the way in which the instruction ended. -/
theorem flagTransitions : Obligations.FlagTransitions := by
  intro i s t h
  have hraised : ∀ {u : State}, u.faulted = true → s.faulted = false → ¬ u.faulted = s.faulted :=
    fun hu hf he => Bool.false_ne_true (hf.symm.trans (he.symm.trans hu))
  cases exec_ends i s t h with
  | completed hfaulted hflags => exact ⟨fun _ => hflags, fun hne => absurd hfaulted hne⟩
  | unaccepted hf hc => exact ⟨fun he => absurd he (hraised rfl hf), fun _ => ⟨rfl, hc, rfl⟩⟩
  | carveFailed hf =>
    exact ⟨fun he => absurd he (hraised rfl hf), fun _ => ⟨rfl, FaultCode.noConfusion, rfl⟩⟩
  | initFailed hf _ hc hplaces =>
    refine ⟨fun he => absurd he (hraised rfl hf), fun _ => ⟨rfl, hc.ne_none, ?_⟩⟩
    rw [hplaces.rest]
    rfl

/-- Settles O15: a legal command that raises was accepted and failed later, and only two can. -/
theorem onlyCarvesAndInitRaise : Obligations.OnlyCarvesAndInitRaise := by
  intro i s t hwf hf hl h hfaulted
  cases exec_ends i s t h with
  | completed hsame => exact absurd (hfaulted.symm.trans (hsame.trans hf)) (by decide)
  | unaccepted _ _ hbad => exact absurd ⟨hwf, hl⟩ hbad
  | carveFailed _ hi => exact .inl ⟨⟨_, hi⟩, rfl, rfl⟩
  | @initFailed u c _ hi hc hplaces =>
    refine .inr ⟨hi, hc, ?_, fun k _ => hplaces.delay k⟩
    rw [State.raise_arena, State.raise_delays, State.raise_faultCode]
    exact congrArg (State.raise · c) hplaces.rest

/-! ## ENGINE_CREATE (R1305) -/

theorem sizeUnits_modulation (s : State) (k : UnitId) : (sizeUnits s).modulation k = s.modulation k := by
  unfold State.modulation
  rw [sizeUnits_state]

/-- Each link is one write to the bank, on what the other link leaves alone. -/
theorem linkUnits_modulation (s : State) :
    (linkUnits s).modulation .MAP_A = { s.modulation .MAP_A with lfo := .LFO_A }
      ∧ (linkUnits s).modulation .MAP_B = { s.modulation .MAP_B with lfo := .LFO_B } := by
  have h : ∀ k, (linkUnits s).modulation k =
      ((s.setModulation .MAP_A { s.modulation .MAP_A with lfo := .LFO_A }).setModulation .MAP_B
        { (s.setModulation .MAP_A { s.modulation .MAP_A with lfo := .LFO_A }).modulation .MAP_B with
          lfo := .LFO_B }).modulation k := fun _ => rfl
  rw [h, h, State.setModulation_modulation_same _ .MAP_B _ rfl,
    State.setModulation_modulation_other _ .MAP_B .MAP_A _ (by decide),
    State.setModulation_modulation_same _ .MAP_A _ rfl,
    State.setModulation_modulation_other _ .MAP_A .MAP_B _ (by decide)]
  exact ⟨rfl, rfl⟩

/-- Settles O22: the capacities and the links are written, each in its own fields. -/
theorem engineCreateFixesConstFields : Obligations.EngineCreateFixesConstFields := by
  intro s hf hr hc
  have hlegal : (s.reserved && !s.created) = true := by rw [hr, hc]; rfl
  obtain ⟨hA, hB⟩ := linkUnits_modulation (sizeUnits s)
  rw [← create_eq, sizeUnits_modulation] at hA hB
  exact ⟨s.create, engineCommand_runs hf hlegal, fun k hk => create_delay s hk, hA, hB,
    by rw [create_state]⟩

end Sys2Proof.Lifecycle
end

section
/-! One field of the units of a list written, unit by unit: what the field is afterwards, what the writes keep, and
when a value written before is lost. The write-back of R1210 and the clearing of R1310 and R1320 are such writes. -/

namespace Sys2Proof.Banks

open Sys2Proof Sys2Proof.Machine Sys2Proof.Keeping

section
variable {α β : Type} {n : Nat}

/-- `put x` made of the value of each unit listed with `x`, one after another. -/
def rewriteBank (slot : UnitId → Option (Fin n)) (d : α) (put : β → α → α) (l : List (UnitId × β))
    (v : Vector α n) : Vector α n :=
  l.foldl (fun v e => bankSet slot v e.1 (put e.2 (bankGet slot v d e.1))) v

variable {slot : UnitId → Option (Fin n)} {d : α} {put : β → α → α} (hslot : SlotInjective slot)

theorem rewriteBank_cons (e : UnitId × β) (l : List (UnitId × β)) (v : Vector α n) :
    rewriteBank slot d put (e :: l) v =
      rewriteBank slot d put l (bankSet slot v e.1 (put e.2 (bankGet slot v d e.1))) := rfl

/-- Another field of any unit stays. -/
theorem rewriteBank_keeps {γ : Type} (field : α → γ) (hput : ∀ x y, field (put x y) = field y)
    (hslot : SlotInjective slot) (k : UnitId) (l : List (UnitId × β)) (v : Vector α n) :
    field (bankGet slot (rewriteBank slot d put l v) d k) = field (bankGet slot v d k) :=
  List.foldlRecOn (motive := fun u => field (bankGet slot u d k) = field (bankGet slot v d k)) l _ rfl
    fun u hu e _ => bankGet_bankSet_of (fun y => field y = field (bankGet slot v d k)) hslot hu
      fun hke => by rw [hput, ← hke, hu]

include hslot

/-- A unit that is not listed keeps its value. -/
theorem bankGet_rewriteBank_other {k : UnitId} (l : List (UnitId × β)) (v : Vector α n)
    (hk : k ∉ l.map Prod.fst) : bankGet slot (rewriteBank slot d put l v) d k = bankGet slot v d k := by
  induction l generalizing v with
  | nil => rfl
  | cons e l ih =>
    obtain ⟨hke, hk⟩ := List.ne_and_not_mem_of_not_mem_cons hk
    rw [rewriteBank_cons, ih _ hk, bankGet_bankSet_other hslot _ _ _ _ _ hke]

/-- A unit listed once takes what it is listed with. -/
theorem bankGet_rewriteBank_mem {e : UnitId × β} (he : (slot e.1).isSome = true) (l : List (UnitId × β))
    (v : Vector α n) (hnodup : (l.map Prod.fst).Nodup) (hmem : e ∈ l) :
    bankGet slot (rewriteBank slot d put l v) d e.1 = put e.2 (bankGet slot v d e.1) := by
  induction l generalizing v with
  | nil => exact absurd hmem List.not_mem_nil
  | cons e' l ih =>
    obtain ⟨he', hnodup⟩ := List.nodup_cons.mp hnodup
    rw [rewriteBank_cons]
    rcases List.mem_cons.mp hmem with rfl | hmem
    · rw [bankGet_rewriteBank_other hslot l _ he', bankGet_bankSet_same slot _ _ _ _ he]
    · have hne : e.1 ≠ e'.1 := fun h => he' (h ▸ List.mem_map_of_mem hmem)
      rw [ih _ hnodup hmem, bankGet_bankSet_other hslot _ _ _ _ _ hne]

/-- What was written into the field of a listed unit before is lost. -/
theorem rewriteBank_absorbs {k : UnitId} {g : α → α} (hput : ∀ x y, put x (g y) = put x y)
    (hk : (slot k).isSome = true) (l : List (UnitId × β)) (v : Vector α n) (hmem : k ∈ l.map Prod.fst) :
    rewriteBank slot d put l (bankSet slot v k (g (bankGet slot v d k))) = rewriteBank slot d put l v := by
  induction l generalizing v with
  | nil => exact absurd hmem List.not_mem_nil
  | cons e l ih =>
    rw [rewriteBank_cons, rewriteBank_cons]
    by_cases hke : e.1 = k
    · rw [hke, bankGet_bankSet_same slot _ _ _ _ hk, hput, bankSet_bankSet]
    · have hrest := ih (bankSet slot v e.1 (put e.2 (bankGet slot v d e.1)))
        ((List.mem_cons.mp hmem).resolve_left (Ne.symm hke))
      rw [bankGet_bankSet_other hslot _ _ _ _ _ (Ne.symm hke)] at hrest
      rw [bankGet_bankSet_other hslot _ _ _ _ _ hke, bankSet_comm hslot _ _ _ _ _ (Ne.symm hke), hrest]

end

/-! ## The write-back (R1210)

The fields it sets, each with the units it sets them of. -/

def putLength (n : Nat) (u : Delay) : Delay := { u with n := n }
def putAlpha (a _old : F32) : F32 := a
def putBeta (b : F32) (p : OnePole) : OnePole := { p with beta := b }
def putDepth (d : F32) (m : Modulation) : Modulation := { m with depth := d }
def putDrive (d _old : F32) : F32 := d

/-- The alphas of the extra allpasses. -/
def extraAlphas (a : F32) : List (UnitId × F32) :=
  [(.XAP1_A, alphaClamp a), (.XAP2_A, alphaClamp a), (.XAP1_B, alphaClamp a), (.XAP2_B, alphaClamp a)]

/-- The alphas of both modes. -/
def commonAlphas (c : Cfg) (C : Coefs) : List (UnitId × F32) :=
  [(.AP1, alphaClamp C.alpha1), (.AP2, alphaClamp C.alpha1), (.AP3, alphaClamp C.alpha2),
   (.AP4, alphaClamp C.alpha2), (.MAP_A, c.alphaMod), (.MAP_B, c.alphaMod), (.TAP_A, alphaClamp C.alphaT),
   (.TAP_B, alphaClamp C.alphaT)]

def writtenAlphas (c : Cfg) (sm : Bool) (C : Coefs) : List (UnitId × F32) :=
  if sm then commonAlphas c C ++ extraAlphas C.alphaT else commonAlphas c C

def writtenBetas (C : Coefs) : List (UnitId × F32) :=
  [(.ILP, C.betaILP), (.IHP, C.betaIHP), (.DLP_A, C.betaHF), (.DLP_B, C.betaHF), (.DHP_A, C.betaLF),
   (.DHP_B, C.betaLF)]

def writtenDepths (c : Cfg) (sm : Bool) : List (UnitId × F32) :=
  [(.MAP_A, if sm then c.depthA else f0), (.MAP_B, if sm then c.depthB else f0)]

def writtenDrives (C : Coefs) : List (UnitId × F32) := [(.SAT_A, C.drive), (.SAT_B, C.drive)]

theorem foldl_setAlpha (l : List (UnitId × F32)) : ∀ s : State,
    l.foldl (fun u e => u.setAlpha e.1 e.2) s =
      { s with alphas := rewriteBank allpassSlot f0 putAlpha l s.alphas } := by
  induction l with
  | nil => exact fun _ => rfl
  | cons e l ih => exact fun s => ih (s.setAlpha e.1 e.2)

theorem foldl_setBeta (l : List (UnitId × F32)) : ∀ s : State,
    l.foldl (fun u e => u.setBeta e.1 e.2) s =
      { s with poles := rewriteBank poleSlot ⟨f0, f0⟩ putBeta l s.poles } := by
  induction l with
  | nil => exact fun _ => rfl
  | cons e l ih => exact fun s => ih (s.setBeta e.1 e.2)

theorem foldl_setDepth (l : List (UnitId × F32)) : ∀ s : State,
    l.foldl (fun u e => u.setDepth e.1 e.2) s =
      { s with mods := rewriteBank modSlot ⟨f0, .LFO_A⟩ putDepth l s.mods } := by
  induction l with
  | nil => exact fun _ => rfl
  | cons e l ih => exact fun s => ih (s.setDepth e.1 e.2)

section
variable (s : State) (sm : Bool) (C : Coefs) (nPD : Nat)

theorem writeBetas_state :
    s.writeBetas C = { s with poles := rewriteBank poleSlot ⟨f0, f0⟩ putBeta (writtenBetas C) s.poles } :=
  foldl_setBeta (writtenBetas C) s

theorem writeAlphas_state :
    s.writeAlphas C = { s with
      alphas := rewriteBank allpassSlot f0 putAlpha (commonAlphas s.cfg C) s.alphas } :=
  foldl_setAlpha (commonAlphas s.cfg C) s

theorem writeDepths_state :
    s.writeDepths sm = { s with
      mods := rewriteBank modSlot ⟨f0, .LFO_A⟩ putDepth (writtenDepths s.cfg sm) s.mods } :=
  foldl_setDepth (writtenDepths s.cfg sm) s

theorem writeExtraAlphas_state (a : F32) :
    s.writeExtraAlphas a = { s with
      alphas := rewriteBank allpassSlot f0 putAlpha (extraAlphas a) s.alphas } :=
  foldl_setAlpha (extraAlphas a) s

/-- What is written in both modes, and nothing else is. -/
theorem writeCommon_state :
    writeCommon s sm C nPD = { s with
      delays := rewriteBank delaySlot ⟨0, 0, 0, 0⟩ putLength [(.PD, nPD)] s.delays
      alphas := rewriteBank allpassSlot f0 putAlpha (commonAlphas s.cfg C) s.alphas
      mods := rewriteBank modSlot ⟨f0, .LFO_A⟩ putDepth (writtenDepths s.cfg sm) s.mods
      poles := rewriteBank poleSlot ⟨f0, f0⟩ putBeta (writtenBetas C) s.poles
      drives := rewriteBank satSlot f0 putDrive (writtenDrives C) s.drives } := by
  simp only [writeCommon, writeBetas_state, writeAlphas_state, writeDepths_state, State.setDelay, State.setDrive]
  rfl

/-- The write-back writes these five banks and nothing else. -/
theorem writeBack_state :
    s.writeBack sm C nPD = { s with
      delays := rewriteBank delaySlot ⟨0, 0, 0, 0⟩ putLength [(.PD, nPD)] s.delays
      alphas := rewriteBank allpassSlot f0 putAlpha (writtenAlphas s.cfg sm C) s.alphas
      mods := rewriteBank modSlot ⟨f0, .LFO_A⟩ putDepth (writtenDepths s.cfg sm) s.mods
      poles := rewriteBank poleSlot ⟨f0, f0⟩ putBeta (writtenBetas C) s.poles
      drives := rewriteBank satSlot f0 putDrive (writtenDrives C) s.drives } := by
  rw [writeBack_eq, writeCommon_state]
  cases sm with
  | false => rfl
  | true =>
    have happend : rewriteBank allpassSlot f0 putAlpha (writtenAlphas s.cfg true C) s.alphas =
        rewriteBank allpassSlot f0 putAlpha (extraAlphas C.alphaT)
          (rewriteBank allpassSlot f0 putAlpha (commonAlphas s.cfg C) s.alphas) := List.foldl_append
    rw [if_pos rfl, writeExtraAlphas_state, happend]

/-! What the write-back sets, bank by bank. -/

theorem writeBack_alpha {e : UnitId × F32} (he : e ∈ writtenAlphas s.cfg sm C) :
    (s.writeBack sm C nPD).alpha e.1 = e.2 := by
  have hslot : ∀ e ∈ writtenAlphas s.cfg sm C, (allpassSlot e.1).isSome = true := by
    cases sm <;> simp [writtenAlphas, commonAlphas, extraAlphas, allpassSlot]
  rw [writeBack_state]
  exact bankGet_rewriteBank_mem allpassSlot_injective (hslot e he) _ _
    (by cases sm <;> simp [writtenAlphas, commonAlphas, extraAlphas]) he

theorem writeBack_alpha_unsmoothed {k : UnitId} (hk : k ∈ extraAllpasses) :
    (s.writeBack false C nPD).alpha k = s.alpha k := by
  rw [writeBack_state]
  refine bankGet_rewriteBank_other allpassSlot_injective _ _ ?_
  revert hk
  cases k <;> simp [extraAllpasses, writtenAlphas, commonAlphas]

theorem writeBack_beta {e : UnitId × F32} (he : e ∈ writtenBetas C) :
    ((s.writeBack sm C nPD).pole e.1).beta = e.2 := by
  have hslot : ∀ e ∈ writtenBetas C, (poleSlot e.1).isSome = true := by simp [writtenBetas, poleSlot]
  rw [writeBack_state]
  exact congrArg OnePole.beta
    (bankGet_rewriteBank_mem poleSlot_injective (hslot e he) _ _ (by simp [writtenBetas]) he)

theorem writeBack_depth {e : UnitId × F32} (he : e ∈ writtenDepths s.cfg sm) :
    ((s.writeBack sm C nPD).modulation e.1).depth = e.2 := by
  have hslot : ∀ e ∈ writtenDepths s.cfg sm, (modSlot e.1).isSome = true := by simp [writtenDepths, modSlot]
  rw [writeBack_state]
  exact congrArg Modulation.depth
    (bankGet_rewriteBank_mem modSlot_injective (hslot e he) _ _ (by simp [writtenDepths]) he)

theorem writeBack_drive {e : UnitId × F32} (he : e ∈ writtenDrives C) :
    (s.writeBack sm C nPD).drive e.1 = e.2 := by
  have hslot : ∀ e ∈ writtenDrives C, (satSlot e.1).isSome = true := by simp [writtenDrives, satSlot]
  rw [writeBack_state]
  exact bankGet_rewriteBank_mem satSlot_injective (hslot e he) _ _ (by simp [writtenDrives]) he

theorem writeBack_predelay : ((s.writeBack sm C nPD).delay .PD).n = nPD := by
  rw [(writeBack_kept s sm C nPD .PD).1, State.setDelay_delay_same _ _ _ rfl]

/-! What it keeps of the units it writes. -/

theorem writeBack_link (k : UnitId) : ((s.writeBack sm C nPD).modulation k).lfo = (s.modulation k).lfo := by
  rw [writeBack_state]
  exact rewriteBank_keeps (put := putDepth) Modulation.lfo (fun _ _ => rfl) modSlot_injective k _ _

theorem writeBack_memory (k : UnitId) : ((s.writeBack sm C nPD).pole k).s = (s.pole k).s := by
  rw [writeBack_state]
  exact rewriteBank_keeps (put := putBeta) OnePole.s (fun _ _ => rfl) poleSlot_injective k _ _

theorem writeBack_cfg : (s.writeBack sm C nPD).cfg = s.cfg := by rw [writeBack_state]

/-- The fields of R1210 after the write-back, each as its list says. -/
theorem writtenBack_writeBack : WrittenBack (s.writeBack sm C nPD) sm C nPD := by
  have halpha : ∀ e ∈ commonAlphas s.cfg C, (s.writeBack sm C nPD).alpha e.1 = e.2 := fun e he =>
    writeBack_alpha s sm C nPD (by cases sm <;> simp [writtenAlphas, he])
  have hbeta := fun e => writeBack_beta s sm C nPD (e := e)
  have hdepth := fun e => writeBack_depth s sm C nPD (e := e)
  have hdrive := fun e => writeBack_drive s sm C nPD (e := e)
  simp only [commonAlphas, writtenBetas, writtenDepths, writtenDrives, List.forall_mem_cons] at *
  obtain ⟨hAP1, hAP2, hAP3, hAP4, hMapA, hMapB, hTapA, hTapB, -⟩ := halpha
  obtain ⟨hILP, hIHP, hDlpA, hDlpB, hDhpA, hDhpB, -⟩ := hbeta
  obtain ⟨hdepthA, hdepthB, -⟩ := hdepth
  obtain ⟨hdriveA, hdriveB, -⟩ := hdrive
  exact {
    predelay := writeBack_predelay s sm C nPD
    inputPoles := ⟨hILP, hIHP⟩
    dampingLow := ⟨hDlpA, hDlpB⟩
    dampingHigh := ⟨hDhpA, hDhpB⟩
    diffusers := ⟨hAP1, hAP2, hAP3, hAP4⟩
    tank := ⟨hTapA, hTapB⟩
    modulated := by rw [writeBack_cfg]; exact ⟨hMapA, hMapB⟩
    depths := by rw [writeBack_cfg]; exact ⟨hdepthA, hdepthB⟩
    drives := ⟨hdriveA, hdriveB⟩ }

/-- In smoothed mode the write-back sets the alphas of the extra allpasses, otherwise it leaves them. -/
theorem writeBack_extraAlpha {k : UnitId} (hk : k ∈ extraAllpasses) :
    (s.writeBack sm C nPD).alpha k = if sm then alphaClamp C.alphaT else s.alpha k := by
  cases sm with
  | false => exact writeBack_alpha_unsmoothed s C nPD hk
  | true =>
    refine writeBack_alpha s true C nPD (e := (k, alphaClamp C.alphaT)) ?_
    revert hk
    cases k <;> simp [extraAllpasses, writtenAlphas, commonAlphas, extraAlphas]

end

end Sys2Proof.Banks
end

section
/-! The coefficients of a sample (48_engine_process.md R1207): each dezipper is stepped once, so it finds the memory
the sample began with and leaves the one the sample ends with. -/

namespace Sys2Proof.Coefficients

open Sys2Proof Sys2Proof.Machine

/-! ## One dezipper -/

theorem dzStep_dezip_same (k : UnitId) (x : F32) (s : State) (hk : (dzSlot k).isSome = true) :
    (dzStep k x s).2.dezip k = ⟨(s.dezip k).beta, (dzStep k x s).1⟩ := State.setDezip_dezip_same s k _ hk

theorem dzStep_dezip_other (k j : UnitId) (x : F32) (s : State) (h : j ≠ k) :
    (dzStep k x s).2.dezip j = s.dezip j := State.setDezip_dezip_other s k j _ h

theorem dzStep_cfg (k : UnitId) (x : F32) (s : State) : (dzStep k x s).2.cfg = s.cfg := rfl

theorem dzStep_beta (k j : UnitId) (x : F32) (s : State) :
    ((dzStep k x s).2.dezip j).beta = (s.dezip j).beta :=
  Keeping.setDezip_of (fun d => d.beta = (s.dezip j).beta) rfl (by rintro rfl; rfl)

/-- Dezipper `k` glided from its memory in `s` towards `x`, to `y`, and `t` remembers that (R1000). -/
def Glided (s t : State) (k : UnitId) (x y : F32) : Prop :=
  ∃ q, NaNSupply q ∧
    let b := (s.dezip k).beta
    y = fflush s.cfg.tDn (fadd (q 0) (fmul (q 1) (fsub (q 2) 0x3F800000#32 b) x) (fmul (q 3) b (s.dezip k).last))
      ∧ t.dezip k = ⟨b, y⟩

/-- A step made between `s` and `t` glides the dezipper, where no other step touches it. -/
theorem glided_of_step {s u t : State} {k : UnitId} {x : F32} (hk : (dzSlot k).isSome = true)
    (hcfg : u.cfg = s.cfg) (hbefore : u.dezip k = s.dezip k) (hafter : t.dezip k = (dzStep k x u).2.dezip k) :
    Glided s t k x (dzStep k x u).1 := by
  refine ⟨u.nan, fIsNaN_nan u, ?_, ?_⟩
  · rw [← hcfg, ← hbefore]
    rfl
  · rw [hafter, dzStep_dezip_same k x u hk, hbefore]

/-- The dezippers of the targets, in order. -/
def dezippers : List (UnitId × (Coefs → F32)) :=
  [(.DZ_A1, Coefs.alpha1), (.DZ_A2, Coefs.alpha2), (.DZ_AT, Coefs.alphaT), (.DZ_DEC, Coefs.decay),
   (.DZ_MIX, Coefs.mix), (.DZ_BILP, Coefs.betaILP), (.DZ_BIHP, Coefs.betaIHP), (.DZ_BHF, Coefs.betaHF),
   (.DZ_BLF, Coefs.betaLF), (.DZ_DRV, Coefs.drive)]

/-- Each of the ten steps meets its dezipper as it was, and no later step meets it again. -/
theorem smoothTargets_glided (T : Coefs) (s : State) :
    ∀ e ∈ dezippers, Glided s (smoothTargets T s).2 e.1 (e.2 T) (e.2 (smoothTargets T s).1) := by
  simp only [dezippers, List.forall_mem_cons, List.not_mem_nil, false_implies, implies_true, and_true, smoothTargets]
  refine ⟨?_, ?_, ?_, ?_, ?_, ?_, ?_, ?_, ?_, ?_⟩
  all_goals
    refine glided_of_step rfl ?_ ?_ ?_
    all_goals simp only [dzStep_cfg, dzStep_dezip_other, ne_eq, reduceCtorEq, not_false_eq_true]

theorem smoothTargets_beta (T : Coefs) (s : State) (k : UnitId) :
    ((smoothTargets T s).2.dezip k).beta = (s.dezip k).beta := by
  simp only [smoothTargets, dzStep_beta]

/-! ## The coefficients -/

/-- Only the dezippers and the draw counter differ. -/
def OnlyDezips (s t : State) : Prop := t = { s with dezips := t.dezips, draws := t.draws }

theorem OnlyDezips.dzStep {s t : State} (h : OnlyDezips s t) {k : UnitId} {x : F32} :
    OnlyDezips s (dzStep k x t).2 := by
  rw [OnlyDezips, dzStep_state, h]

theorem OnlyDezips.smoothTargets {s t : State} (h : OnlyDezips s t) {T : Coefs} :
    OnlyDezips s (smoothTargets T t).2 :=
  h.dzStep.dzStep.dzStep.dzStep.dzStep.dzStep.dzStep.dzStep.dzStep.dzStep

theorem coefficients_state (s : State) : OnlyDezips s (coefficients s).2 := by
  have htick : OnlyDezips s s.tick := rfl
  unfold coefficients
  split
  · exact htick.smoothTargets
  · exact htick

theorem coefficients_of_disabled {s : State} (h : s.cfg.dezipEnabled = false) :
    coefficients s = (targets s, s.tick) := if_neg (ne_true_of_eq_false h)

theorem coefficients_beta (s : State) (k : UnitId) :
    ((coefficients s).2.dezip k).beta = (s.dezip k).beta := by
  unfold coefficients
  split
  · rw [smoothTargets_beta, State.tick_dezip]
  · rfl

/-- Settles O34: the targets as they are, or each glided by its dezipper. -/
theorem coefficientsGlideTowardTargets : Obligations.CoefficientsGlideTowardTargets := by
  intro s
  refine ⟨fun h => ?_, fun h => ?_, coefficients_state s⟩
  · rw [coefficients_of_disabled h]
    exact ⟨rfl, rfl⟩
  · have hcoef : coefficients s = smoothTargets (targets s) s.tick := if_pos h
    rw [hcoef]
    exact smoothTargets_glided (targets s) s.tick

end Sys2Proof.Coefficients
end

section
/-! The signal path of an engine sample (48_engine_process.md R1220, R1225, R1230): what its stages move and what
they leave. A run of stages is told by the units whose buffers it steps and the oscillators it steps. -/

namespace Sys2Proof.SignalPath

open Sys2Proof Sys2Proof.Machine Sys2Proof.Keeping

/-! ## Runs of stages -/

/-- The phase moved on (R700). -/
def advancePhase (o : Oscillator) : Oscillator := { o with idx := (o.idx + 1) % o.N }

/-- Byte `b` is not in the cell that unit `k` writes next. -/
def OutsideCell (s : State) (b : Nat) (k : UnitId) : Prop :=
  b < (s.delay k).base + 4 * (s.delay k).w ∨ (s.delay k).base + 4 * (s.delay k).w + 4 ≤ b

/-- `t` is `s` after stages that step the buffers of `ks` and the oscillators `js`. Where `ks` names a unit twice
nothing is said of its cursor or of the bytes. -/
structure Ran (ks js : List UnitId) (s t : State) : Prop where
  rest : t = { s with
    arena := { s.arena with mem := t.arena.mem }, delays := t.delays, poles := t.poles, oscs := t.oscs,
    xfbA := t.xfbA, xfbB := t.xfbB, draws := t.draws }
  held : ∀ k, k ∉ ks → t.delay k = s.delay k
  moved : ks.Nodup → ∀ k ∈ ks, k ∈ delayUnits → t.delay k = (s.delay k).advance
  bytes : ks.Nodup → ∀ b, (∀ k ∈ ks, OutsideCell s b k) →
    memReadByte t.arena.mem b = memReadByte s.arena.mem b
  factors : ∀ k, (t.pole k).beta = (s.pole k).beta
  phases : ∀ k, admits lfoKinds k = true → t.osc k = advancePhase^[js.count k] (s.osc k)

theorem Ran.trans {ks ks' js js' : List UnitId} {s t u : State} (h : Ran ks js s t) (g : Ran ks' js' t u) :
    Ran (ks ++ ks') (js ++ js') s u where
  rest := by rw [g.rest, h.rest]
  held k hk := by
    rw [List.mem_append, not_or] at hk
    rw [g.held k hk.2, h.held k hk.1]
  moved hnodup k hk hdelay := by
    obtain ⟨hks, hks', hapart⟩ := List.nodup_append'.mp hnodup
    rcases List.mem_append.mp hk with hk | hk
    · rw [g.held k (hapart hk), h.moved hks k hk hdelay]
    · rw [g.moved hks' k hk hdelay, h.held k (fun hk' => hapart hk' hk)]
  bytes hnodup b hb := by
    obtain ⟨hks, hks', hapart⟩ := List.nodup_append'.mp hnodup
    rw [g.bytes hks' b fun k hk => ?_, h.bytes hks b fun k hk => hb k (List.mem_append_left _ hk)]
    have hout := hb k (List.mem_append_right _ hk)
    rwa [OutsideCell, h.held k fun hk' => hapart hk' hk]
  factors k := (g.factors k).trans (h.factors k)
  phases k hk := by
    rw [g.phases k hk, h.phases k hk, List.count_append, Nat.add_comm, Function.iterate_add_apply]

/-- A change of filter memories, accumulators and draws alone. -/
theorem ran_of_poles {s t : State}
    (hrest : t = { s with poles := t.poles, xfbA := t.xfbA, xfbB := t.xfbB, draws := t.draws })
    (hfactors : ∀ k, (t.pole k).beta = (s.pole k).beta) : Ran [] [] s t where
  rest := by rw [hrest]
  held k _ := by rw [hrest]; rfl
  moved _ _ hk := absurd hk List.not_mem_nil
  bytes _ _ _ := by rw [hrest]
  factors := hfactors
  phases k _ := by rw [hrest]; rfl

/-! ## The stages -/

section
variable (s : State)

/-- A saturator's step and the engine's own sums and products only draw. -/
theorem ran_tick : Ran [] [] s s.tick := ran_of_poles rfl fun _ => rfl

theorem ran_setFeedback (a b : F32) : Ran [] [] s (s.setFeedback a b) := ran_of_poles rfl fun _ => rfl

theorem ran_opStep (k : UnitId) (x : F32) : Ran [] [] s (opStep k x s).2 := by
  refine ran_of_poles (by rw [opStep_state]) fun j => ?_
  rw [opStep_state]
  exact bankGet_bankSet_of (fun p : OnePole => p.beta = (s.pole j).beta) poleSlot_injective rfl (by rintro rfl; rfl)

/-- A value stored at a unit's write cursor and the cursor moved on, the oscillators being what they become. -/
theorem ran_store {t : State} (k : UnitId) (v : F32) (js : List UnitId)
    (hrest : t = { s with
      arena := { s.arena with mem := memWriteWord s.arena.mem ((s.delay k).base + 4 * (s.delay k).w) v },
      delays := bankSet delaySlot s.delays k (s.delay k).advance, oscs := t.oscs, draws := t.draws })
    (hphases : ∀ j, admits lfoKinds j = true → t.osc j = advancePhase^[js.count j] (s.osc j)) :
    Ran [k] js s t where
  rest := by rw [hrest]
  held j hj := by
    rw [hrest]
    exact bankGet_bankSet_other delaySlot_injective _ _ _ _ _ (List.mem_singleton.not.mp hj)
  moved _ j hj hdelay := by
    obtain rfl := List.mem_singleton.mp hj
    rw [hrest]
    exact bankGet_bankSet_same _ _ _ _ _ ((delaySlot_isSome_iff j).mpr hdelay)
  bytes _ b hb := by
    rw [hrest]
    exact memReadByte_writeWord_other _ _ _ _ (hb k List.mem_cons_self)
  factors j := by rw [hrest]; rfl
  phases := hphases

theorem ran_dlStep (k : UnitId) (x : F32) : Ran [k] [] s (dlStep k x s).2 :=
  ran_store s k x [] (dlStep_state k x s) fun _ _ => rfl

theorem ran_apStep {k : UnitId} (x : F32) (hk : unitKind k ≠ .APM) : Ran [k] [] s (apStep k x s).2 := by
  have hoscs : (apStep k x s).2.oscs = s.oscs := by rw [apStep_state, if_neg hk]
  refine ran_store s k (apStored k x s) [] (by rw [apStep_state]) fun j _ => ?_
  rw [State.osc, hoscs]
  rfl

/-- A modulated allpass steps its linked oscillator. -/
theorem ran_apStep_modulated {k : UnitId} (x : F32) (hk : unitKind k = .APM) :
    Ran [k] [(s.modulation k).lfo] s (apStep k x s).2 := by
  have hoscs : (apStep k x s).2.oscs = (lfoStep (s.modulation k).lfo s).2.oscs := by
    rw [apStep_state, if_pos hk]
  refine ran_store s k (apStored k x s) _ (by rw [apStep_state]) fun j hj => ?_
  rw [State.osc, hoscs, List.count_singleton]
  by_cases hlink : (s.modulation k).lfo = j
  · rw [hlink, if_pos (beq_self_eq_true j)]
    exact State.setOsc_osc_same s j _ (lfoSlot_isSome hj)
  · rw [if_neg (by simpa using hlink)]
    exact State.setOsc_osc_other s _ j _ (Ne.symm hlink)

/-! ## The parts of the path -/

theorem ran_inputPath (x : F32) :
    Ran [.PD, .AP1, .AP2, .AP3, .AP4] [] s (inputPath x s).2 :=
  (ran_dlStep s .PD x).trans (ran_opStep _ _ _) |>.trans (ran_opStep _ _ _)
    |>.trans (ran_apStep _ _ (by decide)) |>.trans (ran_apStep _ _ (by decide))
    |>.trans (ran_apStep _ _ (by decide)) |>.trans (ran_apStep _ _ (by decide))

/-- Of a branch's allpasses only the first is modulated (R320). -/
structure OneModulated (b : Branch) : Prop where
  map : unitKind b.map = .APM
  tap : unitKind b.tap ≠ .APM
  xap1 : unitKind b.xap1 ≠ .APM
  xap2 : unitKind b.xap2 ≠ .APM

theorem oneModulated_branchA : OneModulated branchA := by constructor <;> decide

theorem oneModulated_branchB : OneModulated branchB := by constructor <;> decide

/-- The extra allpasses of a branch that mode `sm` steps. -/
def extraUnits (b : Branch) (sm : Bool) : List UnitId := if sm then [b.xap1, b.xap2] else []

theorem ran_modeSwitch {b : Branch} (hb : OneModulated b) (sm : Bool) (x : F32) :
    Ran (extraUnits b sm) [] s (modeSwitch b sm x s).2.2 := by
  cases sm with
  | false => exact ran_of_poles rfl fun _ => rfl
  | true => exact (ran_apStep _ _ hb.xap1).trans (ran_apStep _ _ hb.xap2)

/-- The units of a branch whose buffers mode `sm` steps. -/
def branchUnits (b : Branch) (sm : Bool) : List UnitId := [b.map, b.dl1, b.tap, b.dl2] ++ extraUnits b sm

theorem ran_branchPath {b : Branch} (hb : OneModulated b) (sm : Bool) (c3 u f : F32) :
    Ran (branchUnits b sm) [(s.modulation b.map).lfo] s (branchPath b sm c3 u f s).2 := by
  have hall : Ran _ _ s (branchPath b sm c3 u f s).2 :=
    (ran_tick s).trans (ran_apStep_modulated _ _ hb.map) |>.trans (ran_dlStep _ _ _)
      |>.trans (ran_tick _) |>.trans (ran_opStep _ _ _) |>.trans (ran_opStep _ _ _)
      |>.trans (ran_apStep _ _ hb.tap) |>.trans (ran_tick _) |>.trans (ran_dlStep _ _ _)
      |>.trans (ran_modeSwitch _ hb _ _) |>.trans (ran_tick _)
  rw [List.append_nil] at hall
  exact hall

/-- The units whose buffers the tank steps, and its oscillators. -/
theorem ran_tank (sm : Bool) (c3 u : F32) :
    Ran (branchUnits branchA sm ++ branchUnits branchB sm)
      [(s.modulation .MAP_A).lfo, (s.modulation .MAP_B).lfo] s (tank sm c3 u s).2.2 := by
  have hA := ran_branchPath s oneModulated_branchA sm c3 u s.xfbB
  have hB := ran_branchPath (branchPath branchA sm c3 u s.xfbB s).2 oneModulated_branchB sm c3 u s.xfbA
  have hlink : ∀ k, (branchPath branchA sm c3 u s.xfbB s).2.modulation k = s.modulation k := fun k => by
    rw [hA.rest]
    rfl
  rw [hlink] at hB
  have hall := (hA.trans hB).trans (ran_setFeedback _ (tank sm c3 u s).1.next (tank sm c3 u s).2.1.next)
  rw [List.append_nil] at hall
  exact hall

/-- The units whose buffers an engine sample in mode `sm` steps, in the order of the signal path. -/
def pathUnits (sm : Bool) : List UnitId :=
  [.PD, .AP1, .AP2, .AP3, .AP4] ++ (branchUnits branchA sm ++ branchUnits branchB sm)

theorem pathUnits_nodup (sm : Bool) : (pathUnits sm).Nodup := by cases sm <;> decide

theorem mem_pathUnits (sm : Bool) (k : UnitId) : k ∈ pathUnits sm ↔ k ∈ steppedUnits sm := by
  cases sm <;> cases k <;> decide

end

/-- The state a sample's stages begin with: the coefficients written back (R1210). -/
def written (s : State) : State :=
  (coefficients s).2.writeBack s.params.smoothed (coefficients s).1 (predelayLen s)

/-- The stages of a sample in mode `sm` with the coefficients `C`, from the state written back. -/
def sampleFrom (x : F32) (sm : Bool) (C : Coefs) (v : State) : SampleOut × State :=
  let u := inputPath x v
  let t := tank sm C.decay u.1 u.2
  let w := wetOut t.1 t.2.1 t.2.2
  (⟨w.1, w.2, C.mix⟩, t.2.2.tick.tick)

theorem engSample_eq (x : F32) (s : State) :
    engSample x s = sampleFrom x s.params.smoothed (coefficients s).1 (written s) := rfl

/-- What those stages run over. -/
theorem ran_engSample (x : F32) (s : State) :
    Ran (pathUnits s.params.smoothed) [((written s).modulation .MAP_A).lfo, ((written s).modulation .MAP_B).lfo]
      (written s) (engSample x s).2 := by
  have hpath := ran_inputPath (written s) x
  have htank := ran_tank (inputPath x (written s)).2 s.params.smoothed (coefficients s).1.decay
    (inputPath x (written s)).1
  have hlink : ∀ k, (inputPath x (written s)).2.modulation k = (written s).modulation k := fun k => by
    rw [hpath.rest]
    rfl
  rw [hlink, hlink] at htank
  have hall := ((hpath.trans htank).trans (ran_tick _)).trans (ran_tick _)
  rw [List.append_nil, List.append_nil] at hall
  exact hall

end Sys2Proof.SignalPath
end

section
/-! What an engine sample leaves (48_engine_process.md R1201 to R1230), and the two processing commands (R1250,
R1260): the coefficients written back, then the stages, each with its own part of the frame. -/

namespace Sys2Proof.EngineSample

open Sys2Proof Sys2Proof.Machine Sys2Proof.Keeping Sys2Proof.Storage Sys2Proof.Responses Sys2Proof.DelayLine
  Sys2Proof.Coefficients Sys2Proof.Banks Sys2Proof.SignalPath

/-! ## The state written back -/

section
variable (s : State)

/-- The write-back, with the step of the dezippers before it, leaves everything but these. -/
theorem written_rest :
    written s = { s with
      delays := (written s).delays, alphas := (written s).alphas, mods := (written s).mods,
      poles := (written s).poles, drives := (written s).drives, dezips := (written s).dezips,
      draws := (written s).draws } := by
  rw [written, writeBack_state, coefficients_state]

theorem written_delay_other {k : UnitId} (hk : k ≠ .PD) : (written s).delay k = s.delay k := by
  rw [written, (writeBack_kept _ _ _ _ _).1, State.setDelay_delay_other _ _ _ _ hk, coefficients_state]
  rfl

/-- Of PD it writes the length. -/
theorem written_cell (k : UnitId) :
    ((written s).delay k).L = (s.delay k).L ∧ ((written s).delay k).base = (s.delay k).base
      ∧ ((written s).delay k).w = (s.delay k).w := by
  by_cases hk : k = .PD
  · subst hk
    rw [written, (writeBack_kept _ _ _ _ _).1, State.setDelay_delay_same _ _ _ rfl, coefficients_state]
    exact ⟨rfl, rfl, rfl⟩
  · rw [written_delay_other s hk]
    exact ⟨rfl, rfl, rfl⟩

theorem written_osc (k : UnitId) : (written s).osc k = s.osc k := by
  rw [written_rest]
  rfl

theorem written_link (k : UnitId) : ((written s).modulation k).lfo = (s.modulation k).lfo := by
  rw [written, writeBack_link, coefficients_state]
  rfl

theorem written_factor (k : UnitId) : ((written s).dezip k).beta = (s.dezip k).beta := by
  rw [written, (writeBack_kept _ _ _ _ _).2.2, coefficients_beta]

theorem written_dezips (h : s.cfg.dezipEnabled = false) : (written s).dezips = s.dezips := by
  rw [written, writeBack_state, coefficients_of_disabled h]
  rfl

theorem written_extraAlpha {k : UnitId} (hk : k ∈ extraAllpasses) :
    (written s).alpha k =
      if s.params.smoothed then alphaClamp (coefficients s).1.alphaT else s.alpha k := by
  rw [written, writeBack_extraAlpha _ _ _ _ hk]
  congr 1
  rw [coefficients_state]
  rfl

end

/-! ## What the stages keep of it -/

section
variable {ks js : List UnitId} {s t : State} (h : Ran ks js s t)
include h

theorem ran_alpha (k : UnitId) : t.alpha k = s.alpha k := by rw [h.rest]; rfl

/-- A run moves cursors alone. -/
theorem ran_delay (hnodup : ks.Nodup) {k : UnitId} (hk : k ∈ delayUnits) :
    t.delay k = { s.delay k with w := (t.delay k).w } := by
  by_cases hmem : k ∈ ks
  · rw [h.moved hnodup k hmem hk]
    rfl
  · rw [h.held k hmem]

/-- The fields written back stay over a run. -/
theorem ran_writtenBack (hnodup : ks.Nodup) {sm : Bool} {C : Coefs} {n : Nat} (hw : WrittenBack s sm C n) :
    WrittenBack t sm C n := by
  have halpha := ran_alpha h
  have hmod : ∀ k, t.modulation k = s.modulation k := fun k => by rw [h.rest]; rfl
  have hdrive : ∀ k, t.drive k = s.drive k := fun k => by rw [h.rest]; rfl
  have hcfg : t.cfg = s.cfg := by rw [h.rest]
  obtain ⟨hpd, hinput, hlow, hhigh, hdiffusers, htank, hmodulated, hdepths, hdrives⟩ := hw
  constructor
  case predelay => rw [ran_delay h hnodup (by decide)]; exact hpd
  all_goals simpa only [h.factors, halpha, hmod, hdrive, hcfg]

end

/-- Settles O35: the stages keep what the write-back set. -/
theorem engineSampleWritesCoefficients : Obligations.EngineSampleWritesCoefficients := by
  intro x s
  have hran := ran_engSample x s
  refine ⟨ran_writtenBack hran (pathUnits_nodup _) (writtenBack_writeBack _ _ _ _), fun k hk => ?_⟩
  rw [ran_alpha hran, written_extraAlpha s hk]
  rfl

/-! ## The frame -/

/-- ENGINE_CREATE linked each modulated allpass to an oscillator of its own, so a sample steps each oscillator
once (R1220, R1305). -/
theorem count_links {s : State} (hbuilt : s.Built) {k : UnitId} (hk : admits lfoKinds k = true) :
    List.count k [((written s).modulation .MAP_A).lfo, ((written s).modulation .MAP_B).lfo] = 1 := by
  rw [written_link, written_link, hbuilt.linkA, hbuilt.linkB]
  rcases lfo_cases hk with rfl | rfl <;> rfl

theorem engineFrame_engSample (x : F32) {s : State} (hbuilt : s.Built) : EngineFrame s (engSample x s).2 := by
  have hran := ran_engSample x s
  have hnodup := pathUnits_nodup s.params.smoothed
  constructor
  case rest => rw [hran.rest, written_rest]
  case regions =>
    intro k hk
    obtain ⟨hL, hbase, -⟩ := written_cell s k
    rw [ran_delay hran hnodup hk]
    exact ⟨hL, hbase⟩
  case lengths =>
    intro k hk
    have hne : k ≠ .PD := by rintro rfl; exact absurd hk (by decide)
    rw [ran_delay hran hnodup (List.mem_of_mem_tail hk), written_delay_other s hne]
  case stepped =>
    intro k hk
    have hdelay : k ∈ delayUnits := by
      revert hk
      cases s.params.smoothed <;> cases k <;> decide
    obtain ⟨hL, -, hw⟩ := written_cell s k
    rw [hran.moved hnodup k ((mem_pathUnits _ k).mpr hk) hdelay, Delay.advance, hL, hw]
  case held =>
    intro hsm k hk
    have hpath : k ∉ pathUnits s.params.smoothed := by
      rw [hsm]
      revert hk
      cases k <;> decide
    have hne : k ≠ .PD := by rintro rfl; exact absurd hk (by decide)
    rw [hran.held k hpath, written_delay_other s hne, ran_alpha hran, written_extraAlpha s hk, hsm]
    exact ⟨rfl, rfl⟩
  case bytes =>
    intro b hb
    have hmem : (written s).arena.mem = s.arena.mem := by rw [written_rest]
    rw [hran.bytes hnodup b fun k hk => ?_, hmem]
    obtain ⟨-, hbase, hw⟩ := written_cell s k
    rw [OutsideCell, hbase, hw]
    exact hb k ((mem_pathUnits _ k).mp hk)
  case phases =>
    intro k hk
    rw [hran.phases k hk, count_links hbuilt hk, written_osc]
    rfl
  case links =>
    intro k _
    rw [← written_link s k, hran.rest]
    rfl
  case factors =>
    intro k _
    rw [← written_factor s k, hran.rest]
    rfl
  case dezips =>
    intro h
    rw [← written_dezips s h, hran.rest]

/-- The frame is not about the ports and the draws. -/
theorem engineFrame_other_ports {s t u : State} (h : EngineFrame s t)
    (hu : u = { t with agents := u.agents, draws := u.draws }) : EngineFrame s u := by
  obtain ⟨hrest, hregions, hlengths, hstepped, hheld, hbytes, hphases, hlinks, hfactors, hdezips⟩ := h
  rw [hu]
  exact ⟨by rw [hrest], hregions, hlengths, hstepped, hheld, hbytes, hphases, hlinks, hfactors, hdezips⟩

/-! ## PROCESS_MONO and PROCESS_STEREO -/

/-- Settles O38: one engine sample, its blend appended. -/
theorem processMonoBlendsWetAndDry : Obligations.ProcessMonoBlendsWetAndDry := by
  intro x s hs hrun
  obtain ⟨hf, hr⟩ := hrun
  have hexec : exec (.processMono x) s = .next (processMono x s) :=
    (engineCommand_runs hf hr).trans (if_pos (engineOk_of_ready hs hr))
  have hports : SamePorts s (engSample x s).2.tick := SamePorts.tick (SamePorts.engSample {})
  have hframe := engineFrame_engSample x (hs.built (hs.order.2 hr))
  exact ⟨_, (engSample x s).2.nan, hexec, fIsNaN_nan _, responded_respond hports _, rfl,
    engineFrame_other_ports hframe rfl⟩

end Sys2Proof.EngineSample
end

section
/-! PROCESS_STEREO (48_engine_process.md R1260), the signal graph stage by stage (R1220 to R1230) and the wet taps
(R1240): the model's formulas are the statements', the draws of their NaNs numbered anew. -/

namespace Sys2Proof.EngineSample

open Sys2Proof Sys2Proof.Machine Sys2Proof.Keeping Sys2Proof.Storage Sys2Proof.Responses Sys2Proof.DelayLine
  Sys2Proof.Coefficients Sys2Proof.Banks Sys2Proof.SignalPath

/-! ## NaN supplies -/

/-- The first `n` values of one supply, then another. -/
def chainNaNs (n : Nat) (f g : Nat → F32) (i : Nat) : F32 := if i < n then f i else g (i - n)

theorem chainNaNs_supply {n : Nat} {f g : Nat → F32} (hf : NaNSupply f) (hg : NaNSupply g) :
    NaNSupply (chainNaNs n f g) := fun i => by
  unfold chainNaNs
  split
  · exact hf i
  · exact hg _

/-! ## PROCESS_STEREO -/

theorem responded_twice {s t : State} (h : SamePorts s t) (v w : Word) :
    Responded s ((t.respond v).respond w) [v, w] := by
  obtain ⟨hown, hother⟩ := responded_respond h v
  have hlast := State.respond_agent_cur (t.respond v) w
  rw [State.respond_cur, h.cur, hown] at hlast
  refine ⟨?_, fun a ha => ?_⟩
  · rw [hlast, List.append_assoc]
    rfl
  · rw [State.respond_agent_other _ w a (by rw [State.respond_cur, h.cur]; exact ha), hother a ha]

theorem respond_twice_state (t : State) (v w : Word) :
    (t.tick.tick.respond v).respond w = { t with
      agents := ((t.tick.tick.respond v).respond w).agents
      draws := ((t.tick.tick.respond v).respond w).draws } := rfl

theorem engineFrame_of_tick {s t : State} (h : EngineFrame s.tick t) : EngineFrame s t :=
  ⟨h.rest, h.regions, h.lengths, h.stepped, h.held, h.bytes, h.phases, h.links, h.factors, h.dezips⟩

/-- Settles O39: one engine sample on the half-sum, its two blends appended. -/
theorem processStereoBlendsBothChannels : Obligations.ProcessStereoBlendsBothChannels := by
  intro xL xR s hs hrun
  obtain ⟨hf, hr⟩ := hrun
  obtain ⟨r, hsample⟩ : ∃ r, r = engSample (halfSum s.nan xL xR) s.tick := ⟨_, rfl⟩
  have hexec : exec (.processStereo xL xR) s =
      .next ((r.2.tick.tick.respond (blend r.2.nan xL r.1.wetL r.1.mix)).respond
        (blend r.2.tick.nan xR r.1.wetR r.1.mix)) := by
    rw [hsample]
    exact (engineCommand_runs hf hr).trans (if_pos (engineOk_of_ready hs hr))
  have hports : SamePorts s r.2.tick.tick := by
    rw [hsample]
    exact (SamePorts.tick {}).engSample.tick.tick
  have hbuilt : s.tick.Built := { hs.built (hs.order.2 hr) with }
  have hframe : EngineFrame s r.2 := by
    rw [hsample]
    exact engineFrame_of_tick (engineFrame_engSample _ hbuilt)
  have hnans : NaNSupply (chainNaNs 4 r.2.nan (chainNaNs 4 r.2.tick.nan s.nan)) :=
    chainNaNs_supply (fIsNaN_nan _) (chainNaNs_supply (fIsNaN_nan _) (fIsNaN_nan _))
  have hstate := respond_twice_state r.2
  exact ⟨_, _, r, hexec, hnans, hsample, responded_twice hports _ _, hstate _ _,
    engineFrame_other_ports hframe (hstate _ _)⟩

/-! ## The wet taps (R1240) -/

theorem toList_three {α : Type} (v : Vector α 3) : v.toList = [v[0], v[1], v[2]] := by
  refine List.ext_getElem (by simp) fun i hi hi' => ?_
  have hcases : i = 0 ∨ i = 1 ∨ i = 2 := by simp at hi; omega
  rcases hcases with rfl | rfl | rfl <;> simp

theorem toList_five {α : Type} (v : Vector α 5) : v.toList = [v[0], v[1], v[2], v[3], v[4]] := by
  refine List.ext_getElem (by simp) fun i hi hi' => ?_
  have hcases : i = 0 ∨ i = 1 ∨ i = 2 ∨ i = 3 ∨ i = 4 := by simp at hi; omega
  rcases hcases with rfl | rfl | rfl | rfl | rfl <;> simp

/-- The signed sums of R1240: odd terms subtracted, even ones added. -/
theorem wetSum_three (q : Nat → F32) (weight a b c : F32) :
    wetSum q weight [a, b, c] = fmul (q 0) weight (fadd (q 2) (fsub (q 1) a b) c) := by
  simp [wetSum, signedSum]

theorem wetSum_five (q : Nat → F32) (weight a b c d e : F32) :
    wetSum q weight [a, b, c, d, e] =
      fmul (q 0) weight (fadd (q 4) (fsub (q 3) (fadd (q 2) (fsub (q 1) a b) c) d) e) := by
  simp [wetSum, signedSum]

/-- Settles O37: each list written out, the signed sum of its taps is the statement's; the default lists are read
off. -/
theorem defaultWetTaps : Obligations.DefaultWetTaps := by
  refine ⟨fun a b s => ⟨chainNaNs 5 s.nan s.tick.nan, chainNaNs_supply (fIsNaN_nan _) (fIsNaN_nan _), ?_, ?_⟩,
    rfl, rfl, rfl, rfl, fun _ => rfl⟩
  · intro ha hb
    simp only [wetOut, ha, hb, toList_three, List.map_cons, List.map_nil, wetSum_three]
    exact ⟨rfl, rfl⟩
  · intro t4a t5a t4b t5b ha hb
    simp only [wetOut, ha, hb, toList_five, List.map_cons, List.map_nil, wetSum_five]
    exact ⟨rfl, rfl⟩

/-! ## The signal graph -/

/-- A branch's stages in order, on the state each leaves to the next; the engine's own sum and products draw
from the states they meet (R1220, R1225). -/
theorem branchPath_stages (b : Branch) (sm : Bool) (c3 u f : F32) (s : State) :
    ∃ q1 q2, fIsNaN q1 = true ∧ fIsNaN q2 = true ∧
      let map := apStep b.map (fadd (s.nan 0) u f) s.tick
      let dl1 := dlStep b.dl1 map.1 map.2
      let sat := satStep b.sat dl1.1 dl1.2
      let dlp := opStep b.dlp sat.1 sat.2
      let dhp := opStep b.dhp dlp.1 dlp.2
      let tap := apStep b.tap dhp.1 dhp.2
      let dl2 := dlStep b.dl2 (fmul q1 tap.1 c3) tap.2.tick
      let x1 := apStep b.xap1 dl2.1 dl2.2
      let x2 := apStep b.xap2 x1.1 x1.2
      let tail := if sm then x2 else dl2
      branchPath b sm c3 u f s =
        (⟨dl1.1, tap.1, dl2.1, if sm then some (x1.1, x2.1) else none, fmul q2 tail.1 c3⟩, tail.2.tick) := by
  cases sm <;> exact ⟨_, _, fIsNaN_nan _ _, fIsNaN_nan _ _, rfl⟩

end Sys2Proof.EngineSample
end

section
/-! The signal graph stage by stage (48_engine_process.md R1220 to R1230): a branch's own sum and products draw from
the states they meet, and for the rest a sample is its stages, each on the state the one before left. -/

namespace Sys2Proof.EngineSample

open Sys2Proof Sys2Proof.Machine Sys2Proof.Keeping Sys2Proof.Responses Sys2Proof.Coefficients Sys2Proof.Banks
  Sys2Proof.SignalPath

/-- The stages of a branch in order, the NaNs of its sum and its two products being `q0`, `q1` and `q2`. -/
def branchStages (q0 q1 q2 : F32) (b : Branch) (sm : Bool) (c3 u f : F32) (s : State) : BranchOut × State :=
  let map := apStep b.map (fadd q0 u f) s.tick
  let dl1 := dlStep b.dl1 map.1 map.2
  let sat := satStep b.sat dl1.1 dl1.2
  let dlp := opStep b.dlp sat.1 sat.2
  let dhp := opStep b.dhp dlp.1 dlp.2
  let tap := apStep b.tap dhp.1 dhp.2
  let dl2 := dlStep b.dl2 (fmul q1 tap.1 c3) tap.2.tick
  let x1 := apStep b.xap1 dl2.1 dl2.2
  let x2 := apStep b.xap2 x1.1 x1.2
  let tail := if sm then x2 else dl2
  (⟨dl1.1, tap.1, dl2.1, if sm then some (x1.1, x2.1) else none, fmul q2 tail.1 c3⟩, tail.2.tick)

theorem branchPath_eq_stages (b : Branch) (sm : Bool) (c3 u f : F32) (s : State) :
    ∃ q0 q1 q2, fIsNaN q0 = true ∧ fIsNaN q1 = true ∧ fIsNaN q2 = true
      ∧ branchPath b sm c3 u f s = branchStages q0 q1 q2 b sm c3 u f s := by
  cases sm <;> exact ⟨_, _, _, fIsNaN_nan _ _, fIsNaN_nan _ _, fIsNaN_nan _ _, rfl⟩

/-- The six NaNs of both branches, numbered as in the statement. -/
def graphNaNs (a b c d e f : F32) : Nat → F32
  | 0 => a
  | 1 => b
  | 2 => c
  | 3 => d
  | 4 => e
  | _ => f

theorem graphNaNs_supply {a b c d e f : F32} (ha : fIsNaN a = true) (hb : fIsNaN b = true)
    (hc : fIsNaN c = true) (hd : fIsNaN d = true) (he : fIsNaN e = true) (hf : fIsNaN f = true) :
    NaNSupply (graphNaNs a b c d e f) := by
  intro i
  unfold graphNaNs
  split <;> assumption

/-- The branches meet the accumulators of the previous sample: nothing before them writes one (R1230). -/
theorem inputPath_feedback (x : F32) (s : State) :
    (inputPath x (written s)).2.xfbA = s.xfbA ∧ (inputPath x (written s)).2.xfbB = s.xfbB := by
  have hwritten : (written s).xfbA = s.xfbA ∧ (written s).xfbB = s.xfbB := by
    rw [written_rest]
    exact ⟨rfl, rfl⟩
  have hop : ∀ (k : UnitId) (y : F32) (t : State),
      (opStep k y t).2.xfbA = t.xfbA ∧ (opStep k y t).2.xfbB = t.xfbB := fun k y t => by
    rw [opStep_state]
    exact ⟨rfl, rfl⟩
  have hap : ∀ (k : UnitId) (y : F32) (t : State),
      (apStep k y t).2.xfbA = t.xfbA ∧ (apStep k y t).2.xfbB = t.xfbB := fun k y t => by
    rw [apStep_state]
    exact ⟨rfl, rfl⟩
  have hdl : ∀ (k : UnitId) (y : F32) (t : State),
      (dlStep k y t).2.xfbA = t.xfbA ∧ (dlStep k y t).2.xfbB = t.xfbB := fun _ _ _ => ⟨rfl, rfl⟩
  simp only [inputPath, hop, hap, hdl, hwritten, and_self]

/-- Settles O36: the branches written out as their stages, the sample is the statement's chain. -/
theorem engineSampleFollowsTheGraph : Obligations.EngineSampleFollowsTheGraph := by
  intro x s
  obtain ⟨hxfbA, hxfbB⟩ := inputPath_feedback x s
  have hcfg : (engSample x s).2.cfg = s.cfg := by rw [(ran_engSample x s).rest, written_rest]
  obtain ⟨q0, q1, q2, hq0, hq1, hq2, hA⟩ := branchPath_eq_stages branchA s.params.smoothed
    (coefficients s).1.decay (inputPath x (written s)).1 s.xfbB (inputPath x (written s)).2
  obtain ⟨q3, q4, q5, hq3, hq4, hq5, hB⟩ := branchPath_eq_stages branchB s.params.smoothed
    (coefficients s).1.decay (inputPath x (written s)).1 s.xfbA
    (branchStages q0 q1 q2 branchA s.params.smoothed (coefficients s).1.decay
      (inputPath x (written s)).1 s.xfbB (inputPath x (written s)).2).2
  refine ⟨graphNaNs q0 q1 q2 q3 q4 q5, graphNaNs_supply hq0 hq1 hq2 hq3 hq4 hq5, ?_⟩
  intro sm C pd ilp ihp ap1 ap2 ap3 ap4 u mapA dl1A satA dlpA dhpA tapA dl2A x1A x2A tailA nxA
    mapB dl1B satB dlpB dhpB tapB dl2B x1B x2B tailB nxB r
  have houtA : branchStages q0 q1 q2 branchA sm C.decay u s.xfbB ap4.2 =
      (⟨dl1A.1, tapA.1, dl2A.1, if sm then some (x1A.1, x2A.1) else none, nxA⟩, tailA.2.tick) := rfl
  have houtB : branchStages q3 q4 q5 branchB sm C.decay u s.xfbA tailA.2.tick =
      (⟨dl1B.1, tapB.1, dl2B.1, if sm then some (x1B.1, x2B.1) else none, nxB⟩, tailB.2.tick) := rfl
  have htank : tank sm C.decay u ap4.2 =
      (⟨dl1A.1, tapA.1, dl2A.1, if sm then some (x1A.1, x2A.1) else none, nxA⟩,
        ⟨dl1B.1, tapB.1, dl2B.1, if sm then some (x1B.1, x2B.1) else none, nxB⟩,
        tailB.2.tick.setFeedback nxA nxB) := by
    have hpathA : branchPath branchA sm C.decay u ap4.2.xfbB ap4.2 = _ := hxfbB ▸ hA.trans houtA
    have hpathB : branchPath branchB sm C.decay u ap4.2.xfbA tailA.2.tick = _ := hxfbA ▸ hB.trans houtB
    rw [tank, hpathA, hpathB]
  have hsample : r = sampleFrom x sm C (written s) := engSample_eq x s
  have hfrom : sampleFrom x sm C (written s) =
      (let t := tank sm C.decay u ap4.2
      let w := wetOut t.1 t.2.1 t.2.2
      (⟨w.1, w.2, C.mix⟩, t.2.2.tick.tick)) := rfl
  rw [hfrom, htank] at hsample
  have hcfg' : r.2.cfg = s.cfg := hcfg
  clear_value r nxA nxB tailB x2B x1B dl2B tapB dl1B x2A x1A dl2A tapA dl1A C sm
  subst hsample
  exact ⟨rfl, rfl, tailB.2.tick.setFeedback nxA nxB, hcfg', rfl⟩

end Sys2Proof.EngineSample
end

section
/-! Unit-level writes to the fields of the write-back (70_reset_and_hazards.md R1730): the write-back absorbs them, and
nothing before it in a sample reads them. -/

namespace Sys2Proof.Overwriting

open Sys2Proof Sys2Proof.Machine Sys2Proof.Keeping Sys2Proof.Coefficients Sys2Proof.Banks Sys2Proof.SignalPath

/-! ## The coefficients do not depend on the banks written back -/

/-- `s` with the five banks of the write-back as in `b`. -/
def withBanks (b s : State) : State :=
  { s with delays := b.delays, alphas := b.alphas, mods := b.mods, poles := b.poles, drives := b.drives }

theorem dzStep_withBanks (b s : State) (k : UnitId) (x : F32) :
    dzStep k x (withBanks b s) = ((dzStep k x s).1, withBanks b (dzStep k x s).2) := rfl

theorem coefficients_withBanks (b s : State) :
    coefficients (withBanks b s) = ((coefficients s).1, withBanks b (coefficients s).2) := by
  have htick : (withBanks b s).tick = withBanks b s.tick := rfl
  have htargets : targets (withBanks b s) = targets s := rfl
  have hcfg : (withBanks b s).cfg = s.cfg := rfl
  unfold coefficients
  rw [htargets, htick, hcfg]
  split
  · simp only [smoothTargets, dzStep_withBanks]
  · rfl

/-! ## Writes that the write-back absorbs -/

/-- `t` is `s` but for fields that the write-back of its mode sets again, and storage is as in `s`. -/
structure Overwritten (s t : State) : Prop where
  rest : t = withBanks t s := by rfl
  delays : ∀ n, rewriteBank delaySlot ⟨0, 0, 0, 0⟩ putLength [(.PD, n)] t.delays =
    rewriteBank delaySlot ⟨0, 0, 0, 0⟩ putLength [(.PD, n)] s.delays := by exact fun _ => rfl
  alphas : ∀ C, rewriteBank allpassSlot f0 putAlpha (writtenAlphas s.cfg s.params.smoothed C) t.alphas =
    rewriteBank allpassSlot f0 putAlpha (writtenAlphas s.cfg s.params.smoothed C) s.alphas := by
      exact fun _ => rfl
  mods : rewriteBank modSlot ⟨f0, .LFO_A⟩ putDepth (writtenDepths s.cfg s.params.smoothed) t.mods =
    rewriteBank modSlot ⟨f0, .LFO_A⟩ putDepth (writtenDepths s.cfg s.params.smoothed) s.mods := by rfl
  poles : ∀ C, rewriteBank poleSlot ⟨f0, f0⟩ putBeta (writtenBetas C) t.poles =
    rewriteBank poleSlot ⟨f0, f0⟩ putBeta (writtenBetas C) s.poles := by exact fun _ => rfl
  drives : ∀ C, rewriteBank satSlot f0 putDrive (writtenDrives C) t.drives =
    rewriteBank satSlot f0 putDrive (writtenDrives C) s.drives := by exact fun _ => rfl
  cells : ∀ k, (t.delay k).L = (s.delay k).L ∧ (t.delay k).base = (s.delay k).base
    ∧ (t.delay k).w = (s.delay k).w := by exact fun _ => ⟨rfl, rfl, rfl⟩
  links : ∀ k, (t.modulation k).lfo = (s.modulation k).lfo := by exact fun _ => rfl

section
variable {s t : State}

theorem Overwritten.tick (h : Overwritten s t) : Overwritten s.tick t.tick :=
  ⟨congrArg State.tick h.rest, h.delays, h.alphas, h.mods, h.poles, h.drives, h.cells, h.links⟩

/-- The write-back comes to the same state. -/
theorem Overwritten.written (h : Overwritten s t) : written t = written s := by
  have hcoef : coefficients t = ((coefficients s).1, withBanks t (coefficients s).2) := by
    rw [h.rest, coefficients_withBanks, ← h.rest]
  have hparams : t.params = s.params := by rw [h.rest]; rfl
  have hpredelay : predelayLen t = predelayLen s := by rw [h.rest]; rfl
  obtain ⟨u, hu⟩ : ∃ u, u = (coefficients s).2 := ⟨_, rfl⟩
  have hstate := coefficients_state s
  rw [← hu] at hstate
  rw [SignalPath.written, SignalPath.written, hcoef, hparams, hpredelay, writeBack_state, writeBack_state, ← hu]
  rw [hstate]
  simp only [withBanks, h.delays, h.alphas, h.mods, h.poles, h.drives]

theorem Overwritten.engSample (h : Overwritten s t) (x : F32) : engSample x t = engSample x s := by
  have hcoef : (coefficients t).1 = (coefficients s).1 := by rw [h.rest, coefficients_withBanks]
  have hparams : t.params = s.params := by rw [h.rest]; rfl
  rw [engSample_eq, engSample_eq, h.written, hcoef, hparams]

/-- The storage checks read neither lengths nor coefficients. -/
theorem Overwritten.engineOk (h : Overwritten s t) : t.engineOk = s.engineOk := by
  have hcap : t.arena.cap = s.arena.cap := by rw [h.rest]; rfl
  have hosc : ∀ k, t.osc k = s.osc k := fun k => by rw [h.rest]; rfl
  have hdelay : ∀ k, t.delayOk k = s.delayOk k := fun k => by
    obtain ⟨hL, hbase, hw⟩ := h.cells k
    rw [State.delayOk, State.delayOk, State.regionOk, State.regionOk, hL, hbase, hw, hcap]
  have hap : ∀ k, t.apOk k = s.apOk k := fun k => by
    rw [State.apOk, State.apOk, hdelay, h.links, State.oscOk, State.oscOk, hosc]
  rw [State.engineOk, State.engineOk, hap, hap, funext hdelay]

/-- The processing commands do the same. -/
theorem Overwritten.exec (h : Overwritten s t) (hready : s.ready = true) {i : Instr}
    (hi : (∃ x, i = .processMono x) ∨ ∃ xL xR, i = .processStereo xL xR) : exec i t = exec i s := by
  have hf : t.faulted = s.faulted := by rw [h.rest]; rfl
  have hr : t.ready = true := by rw [h.rest]; exact hready
  have hnan : t.nan = s.nan := by rw [h.rest]; rfl
  rcases hi with ⟨x, rfl⟩ | ⟨xL, xR, rfl⟩
  · show execProcessMono x t = execProcessMono x s
    simp only [execProcessMono, State.engineCommand, processMono, hf, hr, hready, if_true, h.engineOk,
      h.engSample]
  · show execProcessStereo xL xR t = execProcessStereo xL xR s
    simp only [execProcessStereo, State.engineCommand, processStereo, hf, hr, hready, if_true, hnan,
      h.engineOk, h.tick.engSample]

end

/-! ## The five kinds of write -/

theorem overwritten_setDelay (s : State) (n : Nat) : Overwritten s (s.setDelay .PD { s.delay .PD with n := n }) where
  delays m := rewriteBank_absorbs (put := putLength) (k := .PD) (g := putLength n) delaySlot_injective
    (fun _ _ => rfl) rfl [(.PD, m)] s.delays List.mem_cons_self
  cells k := setDelay_of (fun u => u.L = (s.delay k).L ∧ u.base = (s.delay k).base ∧ u.w = (s.delay k).w)
    ⟨rfl, rfl, rfl⟩ (by rintro rfl; exact ⟨rfl, rfl, rfl⟩)

theorem overwritten_setAlpha (s : State) {k : UnitId} (a : F32) (hk : admits apKinds k = true)
    (hmode : k ∉ extraAllpasses ∨ s.params.smoothed = true) : Overwritten s (s.setAlpha k a) where
  alphas C := by
    refine rewriteBank_absorbs (put := putAlpha) (g := putAlpha a) allpassSlot_injective (fun _ _ => rfl)
      (allpassSlot_isSome hk) _ _ ?_
    revert hmode
    cases s.params.smoothed <;> revert hk <;> cases k <;>
      simp [admits, apKinds, unitKind, extraAllpasses, writtenAlphas, commonAlphas, extraAlphas]

theorem overwritten_setDepth (s : State) {k : UnitId} (d : F32) (hk : admits apmKinds k = true) :
    Overwritten s (s.setModulation k { s.modulation k with depth := d }) where
  mods := by
    refine rewriteBank_absorbs (put := putDepth) (g := putDepth d) modSlot_injective (fun _ _ => rfl)
      (modSlot_isSome hk) _ _ ?_
    revert hk
    cases k <;> simp [admits, apmKinds, unitKind, writtenDepths]
  links j := setModulation_of (fun m => m.lfo = (s.modulation j).lfo) rfl (by rintro rfl; rfl)

theorem overwritten_setBeta (s : State) {k : UnitId} (b : F32) (hk : admits opKinds k = true) :
    Overwritten s (s.setPole k { s.pole k with beta := b }) where
  poles C := by
    refine rewriteBank_absorbs (put := putBeta) (g := putBeta b) poleSlot_injective (fun _ _ => rfl)
      (poleSlot_isSome hk) _ _ ?_
    revert hk
    cases k <;> simp [admits, opKinds, unitKind, writtenBetas]

theorem overwritten_setDrive (s : State) {k : UnitId} (d : F32) (hk : admits satKinds k = true) :
    Overwritten s (s.setDrive k d) where
  drives C := by
    refine rewriteBank_absorbs (put := putDrive) (g := putDrive d) satSlot_injective (fun _ _ => rfl)
      (satSlot_isSome hk) _ _ ?_
    revert hk
    cases k <;> simp [admits, satKinds, unitKind, writtenDrives]

/-- Settles O40: each of the five writes is absorbed by the write-back of the next sample. -/
theorem engineOverwritesUnitWrites : Obligations.EngineOverwritesUnitWrites := by
  intro i s hready hi
  exact ⟨fun n => (overwritten_setDelay s n).exec hready hi,
    fun _ a hk hmode => (overwritten_setAlpha s a hk hmode).exec hready hi,
    fun _ d hk => (overwritten_setDepth s d hk).exec hready hi, fun _ b hk => (overwritten_setBeta s b hk).exec hready hi,
    fun _ d hk => (overwritten_setDrive s d hk).exec hready hi⟩

end Sys2Proof.Overwriting
end

section
/-! The faulted block (60_exceptions.md R1620): a READ_STATUS at the head of a queue is the one job it takes, and it
writes the ports alone. -/

namespace Sys2Proof.Faulted

open Sys2Proof Sys2Proof.Machine Sys2Proof.Serving

/-- What a faulted block can do for an agent: execute a READ_STATUS at the head of its queue. -/
theorem agentJob_faulted {ag : Agent} {j : Job} :
    agentJob true ag = some j ↔ ∃ rest, ag.queue = readStatusWord :: rest ∧ j = .command .readStatus rest := by
  have hjob : agentJob true ag = faultedJob ag.queue := rfl
  rw [hjob]
  cases ag.queue with
  | nil => simp [faultedJob]
  | cons w rest =>
    by_cases hw : w = readStatusWord
    · simp [faultedJob, hw, eq_comm]
    · simp [faultedJob, hw]

/-- The state READ_STATUS leaves, its word taken from agent `a`. -/
def statusRead (s : State) (a : Nat) (rest : List Word) : State :=
  (s.take a rest).respond (s.take a rest).statusWord

/-- A faulted block's step executes a READ_STATUS at the head of a listed agent's queue. -/
theorem step_of_faulted {s t : State} (hf : s.faulted = true) (h : step s = .next t) :
    ∃ a ag rest, (a, ag) ∈ s.agents ∧ ag.queue = readStatusWord :: rest ∧ t = statusRead s a rest := by
  obtain ⟨a, ag, j, hmem, hjob, hdone⟩ := step_next h
  rw [hf] at hjob
  obtain ⟨rest, hqueue, rfl⟩ := agentJob_faulted.mp hjob
  have hnext : Host.Outcome.next (statusRead s a rest) = Host.Outcome.next t := hdone
  cases hnext
  exact ⟨a, ag, rest, hmem, hqueue, rfl⟩

/-- It makes a step wherever there is such a word. -/
theorem step_next_of_readStatus {s : State} (hf : s.faulted = true) {a : Nat} {rest : List Word}
    (hqueue : (s.agent a).queue = readStatusWord :: rest) : ∃ t, step s = .next t := by
  have hjob := mem_jobs_of_agentJob (s := s) (hf ▸ agentJob_faulted.mpr ⟨rest, hqueue, rfl⟩)
  have hnonempty : pickJob (Config.agentDraw s.draws) s.jobs ≠ none := fun h =>
    List.ne_nil_of_mem hjob (pickJob_none h)
  obtain ⟨⟨b, j⟩, hpick⟩ := Option.ne_none_iff_exists'.mp hnonempty
  obtain ⟨ag, -, hj⟩ := mem_jobs.mp (pickJob_mem hpick)
  rw [hf] at hj
  obtain ⟨rest', -, rfl⟩ := agentJob_faulted.mp hj
  refine ⟨statusRead s b rest', ?_⟩
  unfold step
  rw [hpick]
  rfl

section
variable (s : State) (a : Nat) (rest : List Word)

theorem statusRead_state :
    statusRead s a rest = { s with
      agents := (statusRead s a rest).agents, cur := a, draws := (statusRead s a rest).draws } := rfl

theorem statusRead_agent_same :
    (statusRead s a rest).agent a =
      { s.agent a with queue := rest, resp := (s.agent a).resp ++ [s.statusWord] } := by
  have htake : (s.take a rest).agent a = { s.agent a with queue := rest } := State.setAgent_agent_same _ _ _
  have hown := State.respond_agent_cur (s.take a rest) (s.take a rest).statusWord
  have hcur : (s.take a rest).cur = a := rfl
  rw [hcur, htake] at hown
  exact hown

theorem statusRead_agent_other {b : Nat} (hb : b ≠ a) : (statusRead s a rest).agent b = s.agent b :=
  (State.respond_agent_other (s.take a rest) _ b hb).trans (State.setAgent_agent_other _ _ _ _ hb)

end

/-- Settles O8: the jobs of a faulted block are the READ_STATUS words at the heads of the queues, and a step does
one of them. -/
theorem faultedBlockAcceptsOnlyReadStatus : Obligations.FaultedBlockAcceptsOnlyReadStatus := by
  intro s hs hf
  have hserved : ∀ t, step s = .next t →
      ∃ a rest, (s.agent a).queue = readStatusWord :: rest ∧ t = statusRead s a rest := fun t ht => by
    obtain ⟨a, ag, rest, hmem, hqueue, hdone⟩ := step_of_faulted hf ht
    rw [← agent_of_mem hs hmem] at hqueue
    exact ⟨a, rest, hqueue, hdone⟩
  refine ⟨⟨fun ⟨t, ht⟩ => ?_, fun ⟨a, rest, hqueue⟩ => step_next_of_readStatus hf hqueue⟩, fun t ht => ?_⟩
  · obtain ⟨a, rest, hqueue, -⟩ := hserved t ht
    exact ⟨a, rest, hqueue⟩
  · obtain ⟨a, rest, hqueue, rfl⟩ := hserved t ht
    exact ⟨a, rest, hqueue, statusRead_agent_same s a rest, fun _ hb => statusRead_agent_other s a rest hb,
      statusRead_state s a rest⟩

/-- A run of `n + 1` steps begins with one step. -/
theorem run_succ_next {M : Host.Core} {n : Nat} {s t : M.State} (h : M.run (n + 1) s = .next t) :
    ∃ u, M.step s = .next u ∧ M.run n u = .next t := by
  rw [Host.Core.run] at h
  cases hstep : M.step s with
  | next u =>
    rw [hstep] at h
    exact ⟨u, rfl, h⟩
  | fault f => rw [hstep] at h; cases h
  | refused r => rw [hstep] at h; cases h

/-- What a step of a faulted block keeps. -/
theorem step_of_faulted_state {s u : State} (hf : s.faulted = true) (h : step s = .next u) :
    u = { s with agents := u.agents, cur := u.cur, draws := u.draws } := by
  obtain ⟨a, -, rest, -, -, hu⟩ := step_of_faulted hf h
  rw [hu, statusRead_state]

/-- Settles O9, by induction on the number of steps: each is a READ_STATUS. -/
theorem faultStaysOverRuns : Obligations.FaultStaysOverRuns := by
  intro n
  induction n with
  | zero =>
    intro s t _ h
    cases h
    rfl
  | succ n ih =>
    intro s t hf h
    obtain ⟨u, hstep, hrest⟩ := run_succ_next h
    have hu := step_of_faulted_state hf hstep
    have hfaulted : u.faulted = true := by rw [hu]; exact hf
    have ht := ih u t hfaulted hrest
    rw [ht, hu]

end Sys2Proof.Faulted
end

section
/-! The signal state cleared, as ENGINE_INIT and ENGINE_RESET do (49_lifecycle.md R1310, R1320): the buffers' bytes,
the filter memories, the dezippers. -/

namespace Sys2Proof.Clearing

open Sys2Proof Sys2Proof.Machine Sys2Proof.Keeping Sys2Proof.Storage Sys2Proof.Banks

/-! ## The buffers -/

/-- Byte `b` lies in the buffer of a unit. -/
def InBuffer (u : Delay) (b : Nat) : Prop := u.base ≤ b ∧ b < u.base + 4 * u.L

section
variable {s : State} {b : Nat} (ks : List UnitId)

/-- A byte of a listed buffer is 0 after them all are cleared. -/
theorem memReadByte_clearBuffers_mem (hb : ∃ k ∈ ks, InBuffer (s.delay k) b) :
    memReadByte (s.clearBuffers ks).arena.mem b = 0 := by
  have hfold : ∀ m : Memory, memReadByte m b = 0 ∨ (∃ k ∈ ks, InBuffer (s.delay k) b) →
      memReadByte (ks.foldl (fun m k => memClear m (s.delay k).base (4 * (s.delay k).L)) m) b = 0 := by
    clear hb
    induction ks with
    | nil => simp
    | cons k ks ih =>
      refine fun m h => ih _ ?_
      rw [memReadByte_clear]
      split
      case isTrue => exact .inl rfl
      case isFalse hout =>
        rcases h with h | ⟨j, hj, hin⟩
        · exact .inl h
        · rcases List.mem_cons.mp hj with rfl | hj
          · exact absurd hin hout
          · exact .inr ⟨j, hj, hin⟩
  exact hfold _ (.inr hb)

/-- A byte of none of them stays. -/
theorem memReadByte_clearBuffers_other (hb : ∀ k ∈ ks, ¬ InBuffer (s.delay k) b) :
    memReadByte (s.clearBuffers ks).arena.mem b = memReadByte s.arena.mem b :=
  List.foldlRecOn (motive := fun m => memReadByte m b = memReadByte s.arena.mem b) ks _ rfl
    fun m hm k hk => ((memReadByte_clear m _ _ b).trans (if_neg (hb k hk))).trans hm

end

/-- Buffers cleared in a state that places them as the last state does. -/
theorem zeroedBuffers_of_clear {s t u : State} {ks : List UnitId}
    (hmem : t.arena.mem = (u.clearBuffers ks).arena.mem) (hsame : u.arena.mem = s.arena.mem)
    (hplace : ∀ k ∈ ks, (t.delay k).base = (u.delay k).base ∧ (t.delay k).L = (u.delay k).L) :
    ZeroedBuffers s t ks := by
  refine ⟨fun k hk i hi => ?_, fun b hb => ?_⟩
  · obtain ⟨hbase, hL⟩ := hplace k hk
    have hzero : ∀ j < 4, memReadByte t.arena.mem ((t.delay k).base + 4 * i + j) = 0 := fun j hj => by
      rw [hmem]
      refine memReadByte_clearBuffers_mem ks ⟨k, hk, ?_⟩
      rw [InBuffer, ← hbase, ← hL]
      omega
    rw [State.bufRead, State.cellAddr, memReadWord, hzero 3 (by decide), hzero 2 (by decide), hzero 1 (by decide)]
    rw [show memReadByte t.arena.mem ((t.delay k).base + 4 * i) = 0 from hzero 0 (by decide)]
    rfl
  · rw [hmem, memReadByte_clearBuffers_other ks fun k hk hin => ?_, hsame]
    obtain ⟨hbase, hL⟩ := hplace k hk
    have hout := hb k hk
    rw [InBuffer, ← hbase, ← hL] at hin
    omega

/-! ## Filter memories and dezippers -/

def putMemory (m : F32) (p : OnePole) : OnePole := { p with s := m }
def putDezip (factor v : F32) (_old : Dezipper) : Dezipper := ⟨factor, v⟩

/-- The filter memories as they are cleared. -/
def clearedMemories : List (UnitId × F32) := opUnits.map fun k => (k, f0)

/-- The dezippers, each with its target. -/
def presets (T : Coefs) : List (UnitId × F32) :=
  [(.DZ_A1, T.alpha1), (.DZ_A2, T.alpha2), (.DZ_AT, T.alphaT), (.DZ_DEC, T.decay), (.DZ_MIX, T.mix),
   (.DZ_BILP, T.betaILP), (.DZ_BIHP, T.betaIHP), (.DZ_BHF, T.betaHF), (.DZ_BLF, T.betaLF), (.DZ_DRV, T.drive)]

theorem foldl_clearPole (ks : List UnitId) : ∀ s : State,
    ks.foldl State.clearPole s =
      { s with poles := rewriteBank poleSlot ⟨f0, f0⟩ putMemory (ks.map fun k => (k, f0)) s.poles } := by
  induction ks with
  | nil => exact fun _ => rfl
  | cons k ks ih => exact fun s => ih (s.clearPole k)

theorem foldl_presetDezip (l : List (UnitId × F32)) : ∀ s : State,
    l.foldl (fun u e => u.setDezip e.1 ⟨u.cfg.dezipBeta, e.2⟩) s =
      { s with dezips := rewriteBank dzSlot ⟨f0, f0⟩ (putDezip s.cfg.dezipBeta) l s.dezips } := by
  induction l with
  | nil => exact fun _ => rfl
  | cons e l ih => exact fun s => ih (s.setDezip e.1 ⟨s.cfg.dezipBeta, e.2⟩)

theorem clearPoles_state (s : State) :
    opUnits.foldl State.clearPole s =
      { s with poles := rewriteBank poleSlot ⟨f0, f0⟩ putMemory clearedMemories s.poles } :=
  foldl_clearPole opUnits s

theorem presetDezips_state (s : State) (T : Coefs) :
    s.presetDezips T =
      { s with dezips := rewriteBank dzSlot ⟨f0, f0⟩ (putDezip s.cfg.dezipBeta) (presets T) s.dezips } :=
  foldl_presetDezip (presets T) s

/-! ## All of it -/

section
variable (s : State) (T : Coefs)

/-- What is cleared after the buffers and their cursors. -/
theorem clearedRest_state :
    ((opUnits.foldl State.clearPole ((s.resetPhase .LFO_A).resetPhase .LFO_B)).presetDezips T).clearFeedback =
      { s with
        poles := rewriteBank poleSlot ⟨f0, f0⟩ putMemory clearedMemories s.poles
        oscs := ((s.resetPhase .LFO_A).resetPhase .LFO_B).oscs
        dezips := rewriteBank dzSlot ⟨f0, f0⟩ (putDezip s.cfg.dezipBeta) (presets T) s.dezips
        xfbA := f0
        xfbB := f0 } := by
  rw [clearPoles_state, presetDezips_state]
  rfl

/-- What the clearing writes: bytes, delay fields, oscillators, filter memories, dezippers and accumulators. -/
theorem clearSignal_state : ∃ ds os, s.clearSignal T = { s with
      arena := { s.arena with mem := (s.clearBuffers delayUnits).arena.mem }
      delays := ds
      poles := rewriteBank poleSlot ⟨f0, f0⟩ putMemory clearedMemories s.poles
      oscs := os
      dezips := rewriteBank dzSlot ⟨f0, f0⟩ (putDezip s.cfg.dezipBeta) (presets T) s.dezips
      xfbA := f0
      xfbB := f0 } := by
  have hbuffers : ∀ ks, s.clearBuffers ks =
      { s with arena := { s.arena with mem := (s.clearBuffers ks).arena.mem } } := fun _ => rfl
  have hcursors := forDelays_state (fun _ u => { u with w := 0 }) delayUnits (s.clearBuffers delayUnits)
  rw [clearSignal_eq, clearUnits, clearedRest_state]
  rw [hbuffers] at hcursors ⊢
  generalize (s.clearBuffers delayUnits).arena.mem = m at hcursors ⊢
  rw [hcursors]
  exact ⟨_, _, rfl⟩

theorem clearSignal_pole {k : UnitId} (hk : admits opKinds k = true) :
    (s.clearSignal T).pole k = { s.pole k with s := 0#32 } := by
  have hmem : (k, f0) ∈ clearedMemories := by
    revert hk
    cases k <;> decide
  have hslot : ∀ e ∈ clearedMemories, (poleSlot e.1).isSome = true := by decide
  obtain ⟨ds, os, hstate⟩ := clearSignal_state s T
  rw [hstate]
  exact bankGet_rewriteBank_mem poleSlot_injective (hslot _ hmem) _ _ (by decide) hmem

theorem clearSignal_dezip {e : UnitId × F32} (he : e ∈ presets T) :
    (s.clearSignal T).dezip e.1 = ⟨s.cfg.dezipBeta, e.2⟩ := by
  have hslot : ∀ e ∈ presets T, (dzSlot e.1).isSome = true := by simp [presets, dzSlot]
  obtain ⟨ds, os, hstate⟩ := clearSignal_state s T
  rw [hstate]
  exact bankGet_rewriteBank_mem dzSlot_injective (hslot e he) _ _ (by simp [presets]) he

theorem clearSignal_cfg : (s.clearSignal T).cfg = s.cfg := by
  obtain ⟨ds, os, hstate⟩ := clearSignal_state s T
  rw [hstate]

/-- The signal state of R1310 and R1320 after the clearing. -/
theorem signalCleared_clearSignal : SignalCleared (s.clearSignal T) T := by
  obtain ⟨ds, os, hstate⟩ := clearSignal_state s T
  have hdezip := fun e => clearSignal_dezip s T (e := e)
  simp only [presets, List.forall_mem_cons] at hdezip
  obtain ⟨hA1, hA2, hAT, hDec, hMix, hBilp, hBihp, hBhf, hBlf, hDrv, -⟩ := hdezip
  exact {
    cursors := fun k hk => by rw [clearSignal_delay s T hk]
    phases := fun k hk => by rw [clearSignal_osc s T hk]
    poles := fun k hk => by rw [clearSignal_pole s T hk]
    accumulators := by rw [hstate]; exact ⟨rfl, rfl⟩
    dezips := by
      rw [clearSignal_cfg]
      exact ⟨hA1, hA2, hAT, hDec, hMix, hBilp, hBihp, hBhf, hBlf, hDrv⟩ }

theorem zeroedBuffers_clearSignal : ZeroedBuffers s (s.clearSignal T) delayUnits := by
  obtain ⟨ds, os, hstate⟩ := clearSignal_state s T
  refine zeroedBuffers_of_clear (u := s) (by rw [hstate]) rfl fun k hk => ?_
  rw [clearSignal_delay s T hk]
  exact ⟨rfl, rfl⟩

end

/-- A draw after signal state has changed. -/
theorem tick_signalState {s u : State} {m : Memory} {ds ps os zs a b}
    (h : u = { s with
      arena := { s.arena with mem := m }, delays := ds, poles := ps, oscs := os, dezips := zs, xfbA := a,
      xfbB := b }) :
    u.tick = { s with
      arena := { s.arena with mem := u.tick.arena.mem }, delays := u.tick.delays, poles := u.tick.poles,
      oscs := u.tick.oscs, dezips := u.tick.dezips, xfbA := u.tick.xfbA, xfbB := u.tick.xfbB,
      draws := u.tick.draws } := by
  rw [h]
  rfl

/-! ## ENGINE_RESET -/

/-- Settles O25: the clearing, and one draw. -/
theorem engineResetClearsSignalState : Obligations.EngineResetClearsSignalState := by
  intro s hs hrun
  obtain ⟨hf, hr⟩ := hrun
  obtain ⟨u, hu⟩ : ∃ u, u = s.clearSignal (targets s) := ⟨_, rfl⟩
  have hexec : exec .engineReset s = .next u.tick := by
    rw [hu]
    exact (engineCommand_runs hf hr).trans (if_pos (regionsOk_of_ready hs hr))
  have hzeroed : ZeroedBuffers s u delayUnits := hu ▸ zeroedBuffers_clearSignal s (targets s)
  have hcleared : SignalCleared u (targets s) := hu ▸ signalCleared_clearSignal s (targets s)
  obtain ⟨ds, os, hrest⟩ := clearSignal_state s (targets s)
  have hdelay : ∀ k ∈ delayUnits, u.delay k = { s.delay k with w := 0 } := by
    rw [hu]
    exact fun k hk => clearSignal_delay s (targets s) hk
  have hpole : ∀ k, admits opKinds k = true → u.pole k = { s.pole k with s := 0#32 } := by
    rw [hu]
    exact fun k hk => clearSignal_pole s (targets s) hk
  have hosc : ∀ k, admits lfoKinds k = true → u.osc k = { s.osc k with idx := 0 } := by
    rw [hu]
    exact fun k hk => clearSignal_osc s (targets s) hk
  exact ⟨u.tick, hexec, hzeroed, { hcleared with }, hdelay, hpole, hosc, tick_signalState (hu.trans hrest)⟩

end Sys2Proof.Clearing
end

section
/-! ENGINE_INIT's checks and carves (49_lifecycle.md R1310; 43_lfo.md R710; 60_exceptions.md R1625): what each check
asks, how far the carves come, and the fault of each step. -/

namespace Sys2Proof.Carving

open Sys2Proof Sys2Proof.Machine Sys2Proof.Keeping Sys2Proof.Storage Sys2Proof.Lifecycle

/-! ## The checks -/

/-- The check of step 1 in the exact quotients of R1310. -/
theorem lengthsFit_iff {c : Cfg} (hc : c.wf = true) :
    lengthsFit c = true ↔ ∀ k ∈ fixedDelayUnits, ∃ n, ScaledLength c k n ∧ n + 1 ≤ c.maxLenOf k := by
  simp [lengthsFit, scaledLength_iff hc]

theorem lengthsFit_eq_false {c : Cfg} (hc : c.wf = true)
    (h : ∃ k ∈ fixedDelayUnits, ∃ n, ScaledLength c k n ∧ c.maxLenOf k < n + 1) : lengthsFit c = false := by
  obtain ⟨k, hk, n, hn, hlong⟩ := h
  rw [scaledLength_iff hc] at hn
  refine Bool.eq_false_iff.mpr fun hfit => ?_
  have hshort : scaledLen c k + 1 ≤ c.maxLenOf k := by simpa using List.all_eq_true.mp hfit k hk
  omega

theorem rates_positive {c : Cfg} (h : c.wf = true) :
    positiveFinite c.lfoRateA = true ∧ positiveFinite c.lfoRateB = true := by
  simp only [Cfg.wf, Bool.and_eq_true] at h
  obtain ⟨⟨⟨⟨⟨⟨⟨⟨⟨⟨⟨⟨_, _⟩, hA⟩, hB⟩, _⟩, _⟩, _⟩, _⟩, _⟩, _⟩, _⟩, _⟩, _⟩ := h
  exact ⟨hA, hB⟩

/-- The check of step 2 in the exact quotients of R710. -/
theorem tablesFit_iff {c : Cfg} (hc : c.wf = true) :
    tablesFit c = true ↔ ∀ rho, rho = c.lfoRateA ∨ rho = c.lfoRateB →
      ∃ n, TableLength c rho n ∧ 1 ≤ n ∧ n ≤ c.lfoTableMax := by
  obtain ⟨hA, hB⟩ := rates_positive hc
  simp [tablesFit, tableLenOk, tableLength_iff hc hA, tableLength_iff hc hB]

theorem tablesFit_eq_false {c : Cfg} (hc : c.wf = true)
    (h : ∃ rho n, (rho = c.lfoRateA ∨ rho = c.lfoRateB) ∧ TableLength c rho n ∧ (n < 1 ∨ c.lfoTableMax < n)) :
    tablesFit c = false := by
  obtain ⟨hA, hB⟩ := rates_positive hc
  obtain ⟨rho, n, hrho, hn, hout⟩ := h
  have hlen : n = tableLen c c.lfoRateA ∨ n = tableLen c c.lfoRateB := by
    rcases hrho with rfl | rfl
    · exact .inl ((tableLength_iff hc hA n).mp hn)
    · exact .inr ((tableLength_iff hc hB n).mp hn)
  refine Bool.eq_false_iff.mpr fun hfit => ?_
  have hin := tableLen_fits hfit hlen
  omega

/-! ## The carves -/

/-- Every unit of a list carved, whether its buffer fits or not. -/
def carveAll (s : State) (ks : List UnitId) : State := ks.foldl carveOne s

section
variable {s : State} {k : UnitId} {ks : List UnitId}

theorem carveTotal_cons (c : Cfg) : carveTotal c (k :: ks) = 4 * c.maxLenOf k + carveTotal c ks := rfl

theorem carveAll_cons : carveAll s (k :: ks) = carveAll (carveOne s k) ks := rfl

/-- The model's carves make all those that fit. -/
theorem carve_of_fits {rest : List UnitId} (h : s.arena.off + carveTotal s.cfg ks ≤ s.arena.cap) :
    s.carve (ks ++ rest) = (carveAll s ks).carve rest := by
  induction ks generalizing s with
  | nil => rfl
  | cons k ks ih =>
    rw [carveTotal_cons] at h
    have hnext : (carveOne s k).arena.off + carveTotal (carveOne s k).cfg ks ≤ (carveOne s k).arena.cap := by
      show s.arena.off + 4 * s.cfg.maxLenOf k + carveTotal s.cfg ks ≤ s.arena.cap
      omega
    rw [List.cons_append, carve_cons, if_neg (by omega), ih hnext, carveAll_cons]

theorem carveAll_places (s : State) (ks : List UnitId) : OnlyPlaces s (carveAll s ks) :=
  List.foldlRecOn (motive := OnlyPlaces s) ks carveOne ⟨rfl, fun _ => rfl⟩ fun _ hu k _ => hu.carveOne k

/-- The carved offset moves behind all the buffers. -/
theorem carveAll_off (s : State) (ks : List UnitId) :
    (carveAll s ks).arena.off = s.arena.off + carveTotal s.cfg ks := by
  induction ks generalizing s with
  | nil => rfl
  | cons k ks ih =>
    rw [carveAll_cons, ih, carveTotal_cons]
    exact Nat.add_assoc s.arena.off (4 * s.cfg.maxLenOf k) (carveTotal s.cfg ks)

/-- A unit not carved stays where it is. -/
theorem carveAll_delay_other (hk : k ∉ ks) : (carveAll s ks).delay k = s.delay k := by
  induction ks generalizing s with
  | nil => rfl
  | cons j ks ih =>
    obtain ⟨hkj, hk⟩ := List.ne_and_not_mem_of_not_mem_cons hk
    rw [carveAll_cons, ih hk, carveOne, State.setDelay_delay_other _ _ _ _ hkj]
    rfl

/-- A unit carved once is placed behind those before it. -/
theorem carveAll_base (hks : ∀ j ∈ ks, j ∈ delayUnits) (hnodup : ks.Nodup) (hk : k ∈ ks) :
    ((carveAll s ks).delay k).base =
      s.arena.off + carveTotal s.cfg (ks.takeWhile fun j => decide (j ≠ k)) := by
  induction ks generalizing s with
  | nil => exact absurd hk List.not_mem_nil
  | cons j ks ih =>
    obtain ⟨hj, hnodup⟩ := List.nodup_cons.mp hnodup
    have hslot := (delaySlot_isSome_iff j).mpr (hks j List.mem_cons_self)
    rw [carveAll_cons]
    by_cases hjk : j = k
    · subst hjk
      rw [carveAll_delay_other hj, carveOne, State.setDelay_delay_same _ _ _ hslot, List.takeWhile_cons]
      simp [carveTotal]
    · have hk := (List.mem_cons.mp hk).resolve_left (Ne.symm hjk)
      rw [ih (fun i hi => hks i (List.mem_cons_of_mem _ hi)) hnodup hk, List.takeWhile_cons,
        if_pos (decide_eq_true hjk), carveTotal_cons]
      exact Nat.add_assoc s.arena.off (4 * s.cfg.maxLenOf j) _

end

/-- The units in carve order are those before a unit, the unit itself and the rest. -/
theorem delayUnits_split : ∀ k ∈ delayUnits, ∃ rest, delayUnits = carveBefore k ++ k :: rest := by
  have h : ∀ k ∈ delayUnits,
      delayUnits = carveBefore k ++ k :: delayUnits.drop ((carveBefore k).length + 1) := by decide
  exact fun k hk => ⟨_, h k hk⟩

theorem carveBefore_sublist (k : UnitId) : (carveBefore k).Sublist delayUnits := List.takeWhile_sublist _

theorem carveBefore_nodup (k : UnitId) : (carveBefore k).Nodup :=
  List.Nodup.sublist (carveBefore_sublist k) (by decide)

/-- What comes before a unit that comes before `k`. -/
theorem takeWhile_carveBefore : ∀ k ∈ delayUnits, ∀ j ∈ carveBefore k,
    (carveBefore k).takeWhile (fun i => decide (i ≠ j)) = carveBefore j := by decide

/-! ## The outcomes of ENGINE_INIT -/

section
variable {s u : State} (hf : s.faulted = false) (hc : s.created = true) (hr : s.ready = false)

include hc hr in
theorem engineInit_legal : (s.created && !s.ready) = true := by rw [hc, hr]; rfl

include hf hc hr

theorem engineInit_of_length (hlengths : lengthsFit s.cfg = false) :
    exec .engineInit s = .next (s.raise .delayCapacity) :=
  (engineCommand_runs hf (engineInit_legal hc hr)).trans (if_neg (ne_true_of_eq_false hlengths))

theorem engineInit_of_table (hlengths : lengthsFit s.cfg = true) (htables : tablesFit s.cfg = false) :
    exec .engineInit s = .next (s.raise .lfoConfig) :=
  ((engineCommand_runs hf (engineInit_legal hc hr)).trans (if_pos hlengths)).trans
    (if_neg (ne_true_of_eq_false htables))

/-- Both checks passed, the carves decide. -/
theorem engineInit_of_carve (hlengths : lengthsFit s.cfg = true) (htables : tablesFit s.cfg = true) :
    (s.carve delayUnits = (false, u) → exec .engineInit s = .next (u.raise .arenaOverflow))
      ∧ (s.Inv → s.carve delayUnits = (true, u) → exec .engineInit s = .next u.setUp) := by
  rw [show exec .engineInit s = execEngineInit s from rfl, execEngineInit,
    engineCommand_runs hf (engineInit_legal hc hr), if_pos hlengths, if_pos htables]
  refine ⟨fun hcarve => by rw [hcarve], fun hs hcarve => ?_⟩
  rw [hcarve]
  exact if_pos (regionsOk_of_carve hs hc hr hcarve)

end

/-- The carves that fit, up to the first that does not. -/
theorem carve_overflows {s : State} {k : UnitId} (hk : k ∈ delayUnits)
    (hfit : s.arena.off + carveTotal s.cfg (carveBefore k) ≤ s.arena.cap)
    (hover : s.arena.cap < s.arena.off + carveTotal s.cfg (carveBefore k) + 4 * s.cfg.maxLenOf k) :
    s.carve delayUnits = (false, carveAll s (carveBefore k)) := by
  obtain ⟨rest, hsplit⟩ := delayUnits_split k hk
  have hoff := carveAll_off s (carveBefore k)
  have hplaces := carveAll_places s (carveBefore k)
  have hcap : (carveAll s (carveBefore k)).arena.cap = s.arena.cap := by rw [hplaces.rest]
  have hcfg : (carveAll s (carveBefore k)).cfg = s.cfg := by rw [hplaces.rest]
  rw [hsplit, carve_of_fits hfit, carve_cons, if_pos (by rw [hoff, hcap, hcfg]; exact hover)]

/-- Settles O24: each step of R1310 by its check; the last clause by the carves before the one too many. -/
theorem engineInitFaultsInOrder : Obligations.EngineInitFaultsInOrder := by
  intro s hs hf hc hr
  refine ⟨fun hlong => engineInit_of_length hf hc hr (lengthsFit_eq_false hs.cfgWf hlong),
    fun hlengths hout => engineInit_of_table hf hc hr ((lengthsFit_iff hs.cfgWf).mpr hlengths)
      (tablesFit_eq_false hs.cfgWf hout), fun hlengths htables k hk hfit hover => ?_⟩
  · obtain ⟨hraises, -⟩ := engineInit_of_carve (u := carveAll s (carveBefore k)) hf hc hr
      ((lengthsFit_iff hs.cfgWf).mpr hlengths) ((tablesFit_iff hs.cfgWf).mpr htables)
    have hplaces := carveAll_places s (carveBefore k)
    refine ⟨_, hraises (carve_overflows hk hfit hover), carveAll_off s (carveBefore k), fun j hj => ?_,
      fun j hj => carveAll_delay_other hj, ?_⟩
    · have hbase := carveAll_base (s := s) (fun i hi => (carveBefore_sublist k).subset hi)
        (carveBefore_nodup k) hj
      rw [takeWhile_carveBefore k hk j hj] at hbase
      rw [← hbase]
      exact hplaces.delay j
    · rw [State.raise_arena, State.raise_delays]
      exact congrArg (State.raise · .arenaOverflow) hplaces.rest

end Sys2Proof.Carving
end

section
/-! ENGINE_INIT's set-up of the units (49_lifecycle.md R1310, 43_lfo.md R710) where every check passes and every carve
fits. -/

namespace Sys2Proof.SetUp

open Sys2Proof Sys2Proof.Machine Sys2Proof.Keeping Sys2Proof.Storage Sys2Proof.Lifecycle Sys2Proof.Banks
  Sys2Proof.Clearing Sys2Proof.Carving Sys2Proof.EngineSample

/-! ## The tables (R710) -/

theorem f32OfNat_eq (i : Nat) : f32OfNat i = BitVec.ofNat 32 (roundMag (i * 2 ^ 149) 1) := by
  simp [f32OfNat, fround, fpack]

/-- A sample of a table, by a supply that holds the values drawn for it. -/
theorem sineTable_sample {v : State} {n : Nat} {q : Nat → F32} (hq : ∀ i, i < 3 * n → ∃ a, q a = v.nan i)
    {j : Nat} (hj : j < n) : ∃ a b c, (sineTable v n)[j]? =
      some (fnum Config.sinF (q a)
        (fdiv (q b) (fmul (q c) 0x40C90FDB#32 (BitVec.ofNat 32 (roundMag (j * 2 ^ 149) 1)))
          (BitVec.ofNat 32 (roundMag (n * 2 ^ 149) 1)))) := by
  obtain ⟨a, ha⟩ := hq (3 * j) (by omega)
  obtain ⟨b, hb⟩ := hq (3 * j + 1) (by omega)
  obtain ⟨c, hc⟩ := hq (3 * j + 2) (by omega)
  refine ⟨a, b, c, ?_⟩
  rw [sineTable, List.getElem?_map, List.getElem?_range hj, ha, hb, hc, ← f32OfNat_eq, ← f32OfNat_eq]
  rfl

/-! ## Later writes keep what is cleared and written -/

theorem signalCleared_writeBack {t : State} {T : Coefs} (h : SignalCleared t T) (sm : Bool) (C : Coefs) (n : Nat) :
    SignalCleared (t.writeBack sm C n) T where
  cursors k hk := by
    rw [(writeBack_kept t sm C n k).1]
    exact setDelay_of (fun u => u.w = 0) (h.cursors k hk) fun hkpd => h.cursors .PD (hkpd ▸ hk)
  phases k hk := by
    rw [(writeBack_kept t sm C n k).2.1]
    exact h.phases k hk
  poles k hk := by
    rw [writeBack_memory]
    exact h.poles k hk
  accumulators := by
    rw [writeBack_state]
    exact h.accumulators
  dezips := by
    simp only [(writeBack_kept t sm C n _).2.2, writeBack_cfg]
    exact h.dezips

theorem signalCleared_writeExtraAlphas {t : State} {T : Coefs} (h : SignalCleared t T) (a : F32) :
    SignalCleared (t.writeExtraAlphas a) T := by
  rw [writeExtraAlphas_state]
  exact { h with }

section
variable (t : State) (a : F32)

/-- The four extra alphas are written … -/
theorem writeExtraAlphas_alpha {k : UnitId} (hk : k ∈ extraAllpasses) :
    (t.writeExtraAlphas a).alpha k = alphaClamp a := by
  have hmem : (k, alphaClamp a) ∈ extraAlphas a := by
    revert hk
    cases k <;> simp [extraAllpasses, extraAlphas]
  have hslot : ∀ e ∈ extraAlphas a, (allpassSlot e.1).isSome = true := by simp [extraAlphas, allpassSlot]
  rw [writeExtraAlphas_state]
  exact bankGet_rewriteBank_mem allpassSlot_injective (hslot _ hmem) _ _ (by simp [extraAlphas]) hmem

/-- … and no other. -/
theorem writeExtraAlphas_alpha_other {k : UnitId} (hk : k ∉ extraAllpasses) :
    (t.writeExtraAlphas a).alpha k = t.alpha k := by
  rw [writeExtraAlphas_state]
  exact bankGet_rewriteBank_other allpassSlot_injective _ _ hk

end

theorem writtenBack_writeExtraAlphas {t : State} {sm : Bool} {C : Coefs} {n : Nat} (h : WrittenBack t sm C n)
    (a : F32) : WrittenBack (t.writeExtraAlphas a) sm C n := by
  have halpha : ∀ k, k ∉ extraAllpasses → (t.writeExtraAlphas a).alpha k = t.alpha k := fun k hk =>
    writeExtraAlphas_alpha_other t a hk
  have hstate := writeExtraAlphas_state t a
  generalize t.writeExtraAlphas a = u at *
  generalize rewriteBank allpassSlot f0 putAlpha (extraAlphas a) t.alphas = as at hstate
  have hcfg : u.cfg = t.cfg := by rw [hstate]
  have hdelay : ∀ k, u.delay k = t.delay k := by rw [hstate]; exact fun _ => rfl
  have hpole : ∀ k, u.pole k = t.pole k := by rw [hstate]; exact fun _ => rfl
  have hmod : ∀ k, u.modulation k = t.modulation k := by rw [hstate]; exact fun _ => rfl
  have hdrive : ∀ k, u.drive k = t.drive k := by rw [hstate]; exact fun _ => rfl
  obtain ⟨hpredelay, hinput, hlow, hhigh, hdiffusers, htank, hmodulated, hdepths, hdrives⟩ := h
  constructor
  case predelay => rwa [hdelay]
  case inputPoles => rwa [hpole, hpole]
  case dampingLow => rwa [hpole, hpole]
  case dampingHigh => rwa [hpole, hpole]
  case diffusers => rwa [halpha .AP1 (by decide), halpha .AP2 (by decide), halpha .AP3 (by decide),
      halpha .AP4 (by decide)]
  case tank => rwa [halpha .TAP_A (by decide), halpha .TAP_B (by decide)]
  case modulated => rwa [halpha .MAP_A (by decide), halpha .MAP_B (by decide), hcfg]
  case depths => rwa [hmod, hmod, hcfg]
  case drives => rwa [hdrive, hdrive]

/-! ## The units set up -/

section
variable (s : State)

/-- The state before the clearing: lengths and tables set. -/
theorem setTables_state : ∃ ds os,
    s.setLengths.setTables = { s with delays := ds, oscs := os } := by
  have hfixed := forDelays_state (fun k u => { u with n := scaledLen s.cfg k }) fixedDelayUnits s
  have hlengths : s.setLengths = { s with delays := s.setLengths.delays } := by
    rw [State.setLengths, hfixed]
    rfl
  have htables : ∀ v : State, v.setTables = { v with oscs := v.setTables.oscs } := fun _ => rfl
  rw [htables, hlengths]
  exact ⟨_, _, rfl⟩

/-- What the set-up writes, before READY is set. -/
theorem initUnits_state : ∃ m ds as ms ps drs os zs,
    initUnits s = { s with
      arena := { s.arena with mem := m }, delays := ds, alphas := as, mods := ms, poles := ps, drives := drs,
      oscs := os, dezips := zs, xfbA := f0, xfbB := f0 } := by
  obtain ⟨ds, os, htables⟩ := setTables_state s
  obtain ⟨ds', os', hcleared⟩ := clearSignal_state s.setLengths.setTables (targets s)
  rw [initUnits, writeExtraAlphas_state, writeBack_state, hcleared]
  generalize (s.setLengths.setTables.clearBuffers delayUnits).arena.mem = m
  rw [htables]
  exact ⟨_, _, _, _, _, _, _, _, rfl⟩

theorem setUp_signalCleared : SignalCleared (initUnits s) (targets s) :=
  signalCleared_writeExtraAlphas (signalCleared_writeBack (signalCleared_clearSignal _ _) _ _ _) _

theorem setUp_writtenBack : WrittenBack (initUnits s) s.params.smoothed (targets s) (predelayLen s) :=
  writtenBack_writeExtraAlphas (writtenBack_writeBack _ _ _ _) _

/-- The bytes are those of the clearing, over the buffers as the carves placed them. -/
theorem setUp_zeroedBuffers : ZeroedBuffers s (initUnits s) delayUnits := by
  obtain ⟨ds, os, htables⟩ := setTables_state s
  obtain ⟨ds', os', hcleared⟩ := clearSignal_state s.setLengths.setTables (targets s)
  refine zeroedBuffers_of_clear (u := s.setLengths.setTables) ?_ (by rw [htables]) fun k hk => ?_
  · rw [initUnits, writeExtraAlphas_state, writeBack_state, hcleared]
  · rw [initUnits_delay s hk, show s.setLengths.setTables.delay k = s.setLengths.delay k by
      simp only [State.setTables, State.setOsc_delay], setLengths_delay s hk]
    exact ⟨rfl, rfl⟩

/-- Each oscillator has the table of its rate. -/
theorem setUp_oscs :
    (initUnits s).osc .LFO_A = ⟨tableLen s.cfg s.cfg.lfoRateA, sineTable s.setLengths.tick
        (tableLen s.cfg s.cfg.lfoRateA), 0⟩
      ∧ (initUnits s).osc .LFO_B = ⟨tableLen s.cfg s.cfg.lfoRateB, sineTable s.setLengths.tick.tick
        (tableLen s.cfg s.cfg.lfoRateB), 0⟩ := by
  have hcfg : s.setLengths.cfg = s.cfg := by rw [State.setLengths, State.setDelay_cfg, forDelays_state]
  have hcleared : ∀ k, admits lfoKinds k = true →
      (initUnits s).osc k = { s.setLengths.setTables.osc k with idx := 0 } := fun k hk => by
    rw [initUnits, (writeExtraAlphas_kept _ _ k).2.1, (writeBack_kept _ _ _ _ k).2.1, clearSignal_osc _ _ hk]
  rw [hcleared .LFO_A rfl, hcleared .LFO_B rfl, State.setTables, hcfg, State.setOsc_osc_same _ _ _ rfl,
    State.setOsc_osc_other _ _ _ _ (by decide), State.setOsc_osc_same _ _ _ rfl]
  exact ⟨rfl, rfl⟩

end

/-- The two tables from one supply: first the values drawn for A, then those for B. -/
theorem setUp_tables (s : State) : ∃ q, NaNSupply q ∧ ∀ k, admits lfoKinds k = true →
    ((initUnits s).osc k).table.length = ((initUnits s).osc k).N
      ∧ ∀ j, j < ((initUnits s).osc k).N → ∃ a b c, ((initUnits s).osc k).table[j]? =
        some (fnum Config.sinF (q a)
          (fdiv (q b) (fmul (q c) 0x40C90FDB#32 (BitVec.ofNat 32 (roundMag (j * 2 ^ 149) 1)))
            (BitVec.ofNat 32 (roundMag (((initUnits s).osc k).N * 2 ^ 149) 1)))) := by
  obtain ⟨hA, hB⟩ := setUp_oscs s
  refine ⟨chainNaNs (3 * tableLen s.cfg s.cfg.lfoRateA) s.setLengths.tick.nan s.setLengths.tick.tick.nan,
    chainNaNs_supply (fIsNaN_nan _) (fIsNaN_nan _), fun k hk => ?_⟩
  refine ⟨(initUnits_osc s hk).2.1, fun j hj => ?_⟩
  rcases lfo_cases hk with rfl | rfl
  · rw [hA] at hj ⊢
    exact sineTable_sample (fun i hi => ⟨i, if_pos hi⟩) hj
  · rw [hB] at hj ⊢
    exact sineTable_sample (fun i _ => ⟨3 * tableLen s.cfg s.cfg.lfoRateA + i, by simp [chainNaNs]⟩) hj

/-! ## ENGINE_INIT -/

/-- The carves, the set-up and READY change nothing but what R1310 names. -/
theorem setUp_rest {s u v : State} {d : Nat} (hplaces : OnlyPlaces s u)
    (hunits : ∃ m ds as ms ps drs os zs, v = { u with
      arena := { u.arena with mem := m }, delays := ds, alphas := as, mods := ms, poles := ps, drives := drs,
      oscs := os, dezips := zs, xfbA := f0, xfbB := f0 }) :
    { v with ready := true, draws := d } = { s with
      ready := true, arena := v.arena, delays := v.delays, alphas := v.alphas, mods := v.mods, poles := v.poles,
      drives := v.drives, oscs := v.oscs, dezips := v.dezips, xfbA := v.xfbA, xfbB := v.xfbB, draws := d }
    ∧ v.arena.cap = s.arena.cap ∧ v.arena.off = u.arena.off := by
  obtain ⟨m, ds, as, ms, ps, drs, os, zs, rfl⟩ := hunits
  have hrest := hplaces.rest
  generalize u.arena.off = o, u.delays = dl at hrest
  subst hrest
  exact ⟨rfl, rfl, rfl⟩

/-- Carves change no register, no target and no predelay. -/
theorem onlyPlaces_registers {s u : State} (h : OnlyPlaces s u) :
    u.cfg = s.cfg ∧ u.params = s.params ∧ targets u = targets s ∧ predelayLen u = predelayLen s
      ∧ u.arena.mem = s.arena.mem := by
  rw [h.rest]
  exact ⟨rfl, rfl, rfl, rfl, rfl⟩

section
variable {s : State} (hs : s.Inv) (hc : s.created = true)
include hs hc

/-- ENGINE_INIT completes where every check passes and the buffers fit (R1310). -/
theorem engineInit_completes (hf : s.faulted = false) (hr : s.ready = false) (hlengths : lengthsFit s.cfg = true)
    (htables : tablesFit s.cfg = true) (hfit : s.arena.off + carveTotal s.cfg delayUnits ≤ s.arena.cap) :
    exec .engineInit s = .next { initUnits (carveAll s delayUnits) with
      ready := true, draws := (carveAll s delayUnits).draws + 3 } := by
  have hcarve : s.carve delayUnits = (true, carveAll s delayUnits) := by
    rw [← List.append_nil delayUnits, carve_of_fits hfit, List.append_nil]
    rfl
  obtain ⟨-, hruns⟩ := engineInit_of_carve (u := carveAll s delayUnits) hf hc hr hlengths htables
  rw [hruns hs hcarve, setUp_eq]

/-- The delay fields it leaves. -/
theorem carvedUnits_delay {k : UnitId} (hk : k ∈ delayUnits) :
    (initUnits (carveAll s delayUnits)).delay k =
      { L := s.cfg.maxLenOf k, base := s.arena.off + carveTotal s.cfg (carveBefore k),
        n := if k = .PD then predelayLen s else scaledLen s.cfg k, w := 0 } := by
  have hplaces := carveAll_places s delayUnits
  have hbase : ((carveAll s delayUnits).delay k).base = s.arena.off + carveTotal s.cfg (carveBefore k) :=
    carveAll_base (fun _ h => h) (by decide) hk
  have hsize := (hs.built hc).capacities k hk
  obtain ⟨hcfg, -, -, hpredelay, -⟩ := onlyPlaces_registers hplaces
  rw [initUnits_delay _ hk, hplaces.delay k, hbase, hcfg, hpredelay, ← hsize]

end

/-- Settles O23: the carves all fit, and the set-up is that of the state `u` they leave. -/
theorem engineInitSetsUpTheEngine : Obligations.EngineInitSetsUpTheEngine := by
  intro s hs hf hc hr hlengths htables hfit
  have hexec := engineInit_completes hs hc hf hr ((lengthsFit_iff hs.cfgWf).mpr hlengths)
    ((tablesFit_iff hs.cfgWf).mpr htables) hfit
  have hdelay : ∀ k ∈ delayUnits, _ := fun k hk => carvedUnits_delay hs hc hk
  have hplaces := carveAll_places s delayUnits
  have hcarved := carveAll_off s delayUnits
  generalize carveAll s delayUnits = u at *
  obtain ⟨hcfg, hparams, htargets, hpredelay, hmem⟩ := onlyPlaces_registers hplaces
  obtain ⟨hA, hB⟩ := setUp_oscs u
  have hcleared := setUp_signalCleared u
  have hwritten := setUp_writtenBack u
  have hbytes := setUp_zeroedBuffers u
  have hsamples := setUp_tables u
  have hextra : ∀ k ∈ extraAllpasses, (initUnits u).alpha k = alphaClamp (targets u).alphaT := fun k hk =>
    writeExtraAlphas_alpha _ _ hk
  obtain ⟨hrest, hcap, hoff⟩ := setUp_rest (d := u.draws + 3) hplaces (initUnits_state u)
  generalize initUnits u = v at *
  rw [hcfg] at hA hB
  rw [htargets] at hcleared hwritten hextra
  rw [hpredelay, hparams] at hwritten
  have hregions : ∀ k ∈ delayUnits, (v.delay k).L = s.cfg.maxLenOf k
      ∧ (v.delay k).base = s.arena.off + carveTotal s.cfg (carveBefore k) := fun k hk => by
    rw [hdelay k hk]
    exact ⟨rfl, rfl⟩
  have hlength : ∀ k ∈ fixedDelayUnits, ScaledLength s.cfg k (v.delay k).n := fun k hk => by
    have hne : k ≠ .PD := fun hpd => absurd (hpd ▸ hk) (by decide)
    rw [hdelay k (List.mem_of_mem_tail hk), if_neg hne, scaledLength_iff hs.cfgWf]
  have hzeroed : ZeroedBuffers s v delayUnits :=
    ⟨hbytes.1, fun b hb => (hbytes.2 b hb).trans (by rw [hmem])⟩
  obtain ⟨hrateA, hrateB⟩ := rates_positive hs.cfgWf
  have hperiodA : TableLength s.cfg s.cfg.lfoRateA (v.osc .LFO_A).N := by
    rw [hA, tableLength_iff hs.cfgWf hrateA]
  have hperiodB : TableLength s.cfg s.cfg.lfoRateB (v.osc .LFO_B).N := by
    rw [hB, tableLength_iff hs.cfgWf hrateB]
  exact ⟨_, hexec, hcap, hoff.trans hcarved, hregions, hlength, hzeroed,
    { hcleared with }, { hwritten with }, hextra, hperiodA, hperiodB, hsamples, hrest⟩

end Sys2Proof.SetUp
end
